-- ==== Sys2Proof/Word.lean ====
section
/-! DEFINITION. The word types of the block (spec/00_scope.md R14, R15): SPI frames are bytes, Host registers and
system addresses are 32-bit words. All values are unsigned. -/
namespace Sys2Proof

/-- One SPI frame, one byte of system memory (R14). -/
abbrev Byte := BitVec 8

/-- A Host register, a command argument, a system-memory address (R14). -/
abbrev Word := BitVec 32

end Sys2Proof
end

