-- ==== Sys2Proof/Machine/Crc.lean ====
section
/-! DEFINITION. The two CRC functions: CRC-7 of the command frame (spec/41_crc7_encoder.md R170 to R173) and CRC-16 of
the data block (spec/42_crc16_accumulator.md R185, R186). -/
namespace Sys2Proof.Machine

/-- One bit of the CRC-7 division, the body of the loop of R171. -/
def crc7Bit (c : BitVec 7) (bit : Bool) : BitVec 7 :=
  if (c.getLsbD 6 ^^ bit) then (c <<< 1) ^^^ 0x09#7 else c <<< 1

/-- `crc7_step(c, b)`: bit 7 of the byte first (R171). -/
def crc7Step (c : BitVec 7) (b : Byte) : BitVec 7 :=
  [7, 6, 5, 4, 3, 2, 1, 0].foldl (fun c i => crc7Bit c (b.getLsbD i)) c

/-- `crc7_bytes(c, list)`: the first byte of the list first (R172). -/
def crc7Bytes (c : BitVec 7) (bs : List Byte) : BitVec 7 :=
  bs.foldl crc7Step c

/-- One bit of the CRC-16 division, the body of the loop of R186. -/
def crc16Bit (c : BitVec 16) (bit : Bool) : BitVec 16 :=
  if (c.getLsbD 15 ^^ bit) then (c <<< 1) ^^^ 0x1021#16 else c <<< 1

/-- `crc16_step(c, b)`: bit 7 of the byte first (R186). -/
def crc16Step (c : BitVec 16) (b : Byte) : BitVec 16 :=
  [7, 6, 5, 4, 3, 2, 1, 0].foldl (fun c i => crc16Bit c (b.getLsbD i)) c

/-- `crc16_bytes(c, list)` (R186). -/
def crc16Bytes (c : BitVec 16) (bs : List Byte) : BitVec 16 :=
  bs.foldl crc16Step c

/-- Bytes 0 to 4 of a command frame: `0x40 | idx` and the argument, most significant byte first (R110, R201). -/
def frameHeader (idx : BitVec 6) (arg : Word) : List Byte :=
  [0x40#8 ||| idx.setWidth 8, arg.extractLsb' 24 8, arg.extractLsb' 16 8, arg.extractLsb' 8 8, arg.extractLsb' 0 8]

/-- The CRC-7 of a command frame, over its bytes 0 to 4 from 0 (R172). -/
def frameCrc (idx : BitVec 6) (arg : Word) : BitVec 7 :=
  crc7Bytes 0 (frameHeader idx arg)

/-- Frame byte 5: the CRC in bits 7:1 and the end bit 1 in bit 0 (R173). -/
def frameEnd (crc : BitVec 7) : Byte :=
  crc ++ 1#1

/-- The six bytes of a command frame, first byte first on the wire (R110). -/
def frameBytes (idx : BitVec 6) (arg : Word) : List Byte :=
  frameHeader idx arg ++ [frameEnd (frameCrc idx arg)]

end Sys2Proof.Machine
end

