-- ==== Sys2Proof/Config.lean ====
section
/-! DEFINITION. What an implementation fixes (the parameters of spec/00_scope.md R13) and the free values: opaque
constants with no body, which stand for what the spec leaves open (spec/93_implementation_defined.md). -/
namespace Sys2Proof

/-- One event of the wire trace (spec/10_state.md R53). -/
inductive WireEvent where
  /-- One byte exchange: chip-select, the pair (SPEED_OP, LEVEL), the byte sent and the byte received. -/
  | exchange (cs : Bool) (speedOp : Bool) (level : BitVec 2) (tx rx : Byte)
  /-- Chip-select changed to the new level (R142). -/
  | csChange (cs : Bool)
  deriving DecidableEq, Repr

/-- The implementation parameters of R13. The block takes them as arguments: State holds them as plain data and no
step changes them, so a statement about every state is a statement about every choice of them. -/
structure Params where
  /-- `BLOCK_BASE`, OPEN (R13, U18). -/
  blockBase : Word
  idleClockBytes : Nat
  ncrLimit : Nat
  busyFastSamples : Nat
  busyPollLimit : Nat
  tokenPollLimit : Nat
  drespLimit : Nat
  cmd0Limit : Nat
  cmd0AbsentLimit : Nat
  cmd8Limit : Nat
  acmd41Limit : Nat
  cmd58Limit : Nat
  cmd16Limit : Nat
  /-- `SLOW_CLOCK_HZ`, OPEN (U17); no rule depends on it (R371). -/
  slowClockHz : Nat
  /-- `OPERATING_CLOCK_HZ(level)` for level 0 to 3, OPEN (U17); no rule depends on it (R371). -/
  operatingClockHz : Vector Nat 4
  /-- The system-memory ranges (base, length) that answer `MemAdmits` (U19). -/
  admitted : List (Nat × Nat)
  deriving DecidableEq, Repr

/-- The defaults of R13. The OPEN ones hold a value of the model's (DESIGN CHOICE, log 4 and 5; unsafe for a
statement that rests on it). -/
def Params.default : Params where
  blockBase := 0x40000000
  idleClockBytes := 10
  ncrLimit := 8
  busyFastSamples := 4
  busyPollLimit := 1048576
  tokenPollLimit := 65536
  drespLimit := 8
  cmd0Limit := 256
  cmd0AbsentLimit := 64
  cmd8Limit := 16
  acmd41Limit := 4096
  cmd58Limit := 16
  cmd16Limit := 16
  slowClockHz := 400000
  operatingClockHz := #v[24000000, 12000000, 6000000, 3000000]
  admitted := [(0, 4294967296)]

/-- SECTOR_BYTES: 512, fixed (R13). -/
def sectorBytes : Nat := 512

/-- The parameters are in their domain: every limit positive, `IDLE_CLOCK_BYTES ≥ 10`, the operating clock strictly
decreasing in the level (R13, R274, R324 (a)). -/
def Params.inDomain (p : Params) : Bool :=
  decide (10 ≤ p.idleClockBytes) && (decide (0 < p.ncrLimit) && (decide (0 < p.busyFastSamples) &&
  (decide (0 < p.busyPollLimit) && (decide (0 < p.tokenPollLimit) && (decide (0 < p.drespLimit) &&
  (decide (0 < p.cmd0Limit) && (decide (0 < p.cmd0AbsentLimit) && (decide (0 < p.cmd8Limit) &&
  (decide (0 < p.acmd41Limit) && (decide (0 < p.cmd58Limit) && (decide (0 < p.cmd16Limit) &&
  (decide (p.operatingClockHz[1] < p.operatingClockHz[0]) &&
  (decide (p.operatingClockHz[2] < p.operatingClockHz[1]) &&
  decide (p.operatingClockHz[3] < p.operatingClockHz[2]))))))))))))))

/-- The Card's answer to an exchange (R12, U3): a free value, with no law on it. It may depend on a plain counter of
draws (so that a reset of the block is no reset of the Card, R350 (f)), on the wire trace, on chip-select and on the
byte sent. -/
opaque Config.cardAnswer : Nat → List WireEvent → Bool → Byte → Byte

/-- What a Host read of CRC7 returns while BUSY = 1 (R55, U1): a fresh draw per read. -/
opaque Config.busyCrc7Read : Nat → BitVec 7

/-- What a Host read of CRC16 returns while BUSY = 1 (R55, U1): a fresh draw per read. -/
opaque Config.busyCrc16Read : Nat → BitVec 16

/-- What CRC7 holds after a fault halted a running operation (R322, U2). -/
opaque Config.haltedCrc7 : Nat → BitVec 7

/-- What CRC16 holds after a fault halted a running operation (R322, U2). -/
opaque Config.haltedCrc16 : Nat → BitVec 16

/-- What a read of a byte of system memory returns that the barriers of R94 do not order (R94, U4). -/
opaque Config.unorderedByte : Nat → Byte

end Sys2Proof
end

