-- ==== Sys2Proof/Syntax.lean ====
section
/-! DEFINITION. The instructions: one constructor per row of spec/opcode_table.json. The block has two encoding
levels (spec/30_encoding.md): the operations, selected by a 32-bit write to OPCODE (R100, R101, R103), and the wire
items, the SD command frames (R110, R211 to R223) and the tokens (R115, R117). -/
namespace Sys2Proof

/-- One constructor per row of spec/opcode_table.json. An operation has no operand of its own: its operands are the
operand registers at the moment of the OPCODE write (R100). A command frame holds its argument and its CRC field; the
named frames fix the index. The data-response token holds its three ignored bits and its three status bits (R117). -/
inductive Instr where
  | nop | busEnable | busDisable | csAssert | csRelease | setSpeed | idleClocks | xferByte | xferWord
  | crc7Clear | crc7Feed | crc16Clear | crc16Feed
  | cmdSend | readBlock | writeBlock | stopTran | busyWait | init
  | reserved13 | reserved14 | reserved15 | reserved16 | reserved17 | reserved18 | reserved19
  | reserved1A | reserved1B | reserved1C | reserved1D | reserved1E | reserved1F
  | sdFrame (idx : BitVec 6) (arg : Word) (crc : BitVec 7)
  | cmd0 (arg : Word) (crc : BitVec 7)
  | cmd8 (arg : Word) (crc : BitVec 7)
  | cmd59 (arg : Word) (crc : BitVec 7)
  | cmd55 (arg : Word) (crc : BitVec 7)
  | acmd41 (arg : Word) (crc : BitVec 7)
  | cmd58 (arg : Word) (crc : BitVec 7)
  | cmd16 (arg : Word) (crc : BitVec 7)
  | cmd17 (arg : Word) (crc : BitVec 7)
  | cmd18 (arg : Word) (crc : BitVec 7)
  | cmd12 (arg : Word) (crc : BitVec 7)
  | cmd24 (arg : Word) (crc : BitVec 7)
  | cmd25 (arg : Word) (crc : BitVec 7)
  | acmd23 (arg : Word) (crc : BitVec 7)
  | startToken | startTokenMulti | stopToken
  | dataResponse (ignored : BitVec 3) (status : BitVec 3)
  deriving DecidableEq, Repr

/-- Why a list of bytes is no instruction: the decoder's rejections, each by a name of its own. -/
inductive DecodeError where
  /-- Neither one byte (a token), four (an OPCODE write) nor six (a command frame). -/
  | badLength
  /-- The frame's start and transmission bits are not 01 (R110). -/
  | badStartBits
  /-- The frame's end bit is not 1 (R110). -/
  | badEndBit
  /-- The byte is none of the tokens of R115 and does not have the data-response form of R117. -/
  | notAToken
  deriving DecidableEq, Repr

end Sys2Proof
end

