-- ==== Sys2Proof/Machine/State.lean ====
section
/-! DEFINITION. The state of the machine as plain data: every register and every internal field of spec/10_state.md
(R32 to R54), system memory (R81), the parameters of R13, and the model's own inputs: what the Host does next, what
the Card answers next. Beside it the reasons a step can stop, and the state after reset (R59). -/
namespace Sys2Proof.Machine

/-- STATUS.CARD_STATE (R35, R48). -/
inductive CardState where
  | uninitialized | resetAcknowledged | voltageNegotiated | ready
  deriving DecidableEq, Repr

/-- STATUS.ERRCODE, in the order of its codes 0 to 15 (R310). -/
inductive ErrCode where
  | none | r1Timeout | r1Error | busyTimeout | tokenTimeout | tokenFraming | dataCrc | drespTimeout | writeRejected
  | initCardAbsent | initIdleFailed | initIfcondFailed | initCrconFailed | initOpcondFailed | initOcrFailed
  | initBlocklenFailed
  deriving DecidableEq, Repr

/-- FAULT.FAULTCODE, in the order of its codes 0 to 7 (R320). The codes 8 to 15 are never produced (U14). -/
inductive FaultCode where
  | none | opWhileBusy | reservedOp | busDisabled | notReady | notSelected | dmaBusError | regAccess
  deriving DecidableEq, Repr

/-- CMDIDX.RTYPE, in the order of its codes 0 to 3 (R37, R112). -/
inductive RespType where
  | r1 | r1b | r3r7 | r2
  deriving DecidableEq, Repr

/-- `init.phase`, STATUS.PHASE, in the order of its codes 0 to 9 (R271). The codes 10 to 15 are never taken (U13). -/
inductive Phase where
  | idle | clocks | goIdle | ifCond | crcOn | appCmd | opCond | speedUp | readOcr | blockLen
  deriving DecidableEq, Repr

/-- The commands INIT sends, one per phase that sends one (R271, R275 to R281). -/
inductive InitCmd where
  | goIdle | ifCond | crcOn | appCmd | opCond | readOcr | blockLen
  deriving DecidableEq, Repr

/-- The operand latch `lat` (R50). -/
structure Latch where
  op : BitVec 5
  idx : BitVec 6
  rtype : RespType
  arg : Word
  data : Word
  buf : Word
  level : BitVec 2
  deriving DecidableEq, Repr

/-- The stored fields of STATUS (R35). BUSY is `eng.active` (R51), computed from the sequencer; PHASE is `init.phase`
(R52). -/
structure Status where
  done : Bool
  err : Bool
  xfer : Bool
  poll : Bool
  fault : Bool
  cardState : CardState
  errCode : ErrCode
  deriving DecidableEq, Repr

/-- CONFIG (R36). -/
structure ConfigReg where
  ie : Bool
  level : BitVec 2
  deriving DecidableEq, Repr

/-- CMDIDX (R37). -/
structure CmdIdxReg where
  idx : BitVec 6
  rtype : RespType
  deriving DecidableEq, Repr

/-- BUSCTL (R46). -/
structure BusCtl where
  busEn : Bool
  cs : Bool
  speedOp : Bool
  width32 : Bool
  level : BitVec 2
  deriving DecidableEq, Repr

/-- `init.phase`, `init.attempt`, `init.absent` (R52). -/
structure InitRegs where
  phase : Phase
  attempt : Nat
  absent : Nat
  deriving DecidableEq, Repr

/-- How a command transaction ended: OK, TIMEOUT, RERROR, BUSYTO (R200). -/
inductive TxnStatus where
  | ok | timeout | rerror | busyTo
  deriving DecidableEq, Repr

/-- The results of INIT's last transactions, which reach RESP0 and RESP1 when INIT finishes (R55, R93, R273, log 9). -/
structure Pending where
  r0 : Option Byte
  r1 : Option Word
  deriving DecidableEq, Repr

/-- Who runs a command transaction: CMD_SEND on the latched operands, or INIT with one of its own commands. -/
inductive Caller where
  | cmdSend
  | init (cmd : InitCmd) (pend : Pending)
  deriving DecidableEq, Repr

/-- Who waits in the busy poll (R250): a transaction with an R1b response and its R1 byte, or an operation. -/
inductive BusyUser where
  | txn (c : Caller) (r1 : Byte)
  | writeBlock
  | stopTran
  | busyWait
  deriving DecidableEq, Repr

/-- `eng.cont` (R51): the program point of the current operation, that is its next step, with the operation's local
variables. `idle` is the empty sequence; `eng.active`, STATUS.BUSY, is every other one. -/
inductive Cont where
  | idle
  /-- IDLE_CLOCKS with this many bytes to go (R151). -/
  | idleClocks (left : Nat)
  /-- XFER_BYTE (R152). -/
  | xferByte
  /-- XFER_WORD at byte k, with the bytes received so far (R153). -/
  | xferWord (k : Fin 4) (got : Word)
  /-- A transaction at byte k of the command frame (R200). -/
  | frame (c : Caller) (k : Fin 6)
  /-- The stuff byte after CMD12 (R202). -/
  | stuff (c : Caller)
  /-- The poll for R1 after k polled bytes (R203). -/
  | r1Poll (c : Caller) (k : Nat)
  /-- The bytes after R1, k of them received (R206). -/
  | trailing (c : Caller) (r1 : Byte) (k : Fin 4) (got : Word)
  /-- The byte after chip-select's release that ends an INIT transaction (R273). -/
  | initTrail (cmd : InitCmd) (st : TxnStatus) (r1 : Byte) (tail : Option Word) (pend : Pending)
  /-- READ_BLOCK waiting for the start token, k bytes polled (R231). -/
  | tokenWait (k : Nat)
  /-- READ_BLOCK at data byte i (R232). -/
  | readData (i : Fin 512)
  | readCrcHi
  | readCrcLo (hi : Byte)
  /-- WRITE_BLOCK at its start token (R240, R241). -/
  | writeToken
  /-- WRITE_BLOCK at data byte i (R240). -/
  | writeData (i : Fin 512)
  | writeCrcHi
  | writeCrcLo
  /-- WRITE_BLOCK waiting for the data response, k bytes polled (R243). -/
  | writeResp (k : Nat)
  /-- STOP_TRAN at its token (R252). -/
  | stopToken
  /-- STOP_TRAN at the byte before the busy poll (R252). -/
  | stopGap
  /-- The busy poll after k samples (R250). -/
  | busy (u : BusyUser) (k : Nat)
  /-- INIT phase a after k idle bytes (R274). -/
  | initClocks (k : Nat)
  /-- INIT phase f, a step with no exchange (R279). -/
  | speedUp (pend : Pending)
  deriving DecidableEq, Repr

/-- The width of a Host access. -/
inductive Width where
  | w8 | w16 | w32
  deriving DecidableEq, Repr

/-- What the Host, the scheduler and the platform do next (R9, R10, R105, log 1): the model's input. -/
inductive HostAction where
  /-- A Host store (R80): to the register window if its address lies there, else to system memory. -/
  | store (addr : Word) (width : Width) (value : Word)
  /-- A Host load (R80); the value comes in `rdata`. -/
  | load (addr : Word) (width : Width)
  /-- A Host data memory barrier (R94). -/
  | dmb
  /-- The block's reset input (R350). -/
  | reset
  /-- The scheduler gives the next step to the Engine (R10, R373). -/
  | engine
  /-- `WAITDONE` (R105). -/
  | waitDone
  /-- `WAITBUF` (R106). -/
  | waitBuf
  /-- The Host reads STATUS and ends its program if ERR = 1 (R237, R247). -/
  | stopOnErr
  /-- A command-frame row of the opcode table: the Host sends this command (R106, log 16). -/
  | frame (w : BitVec 48)
  /-- A token row of the opcode table: the byte is on the bus at the Engine's next exchange (R115, R117, log 19). -/
  | token (b : Byte)
  deriving DecidableEq, Repr

/-- System memory: (address, byte) pairs, addresses strictly rising, no entry equal to what an unlisted address reads
as (R81, log 6). -/
abbrev Mem := List Host.Cell

/-- The machine. -/
structure State where
  /-- `lat` (R50); OPCODE reads back `lat.op` (R34). -/
  lat : Latch
  /-- STATUS but for BUSY and PHASE (R35). -/
  status : Status
  /-- CONFIG (R36). -/
  config : ConfigReg
  /-- CMDIDX (R37). -/
  cmdIdx : CmdIdxReg
  /-- CMDARG (R38). -/
  cmdArg : Word
  /-- DATA (R39). -/
  data : Word
  /-- BUFADDR (R40). -/
  bufAddr : Word
  /-- RESP0 (R41). -/
  resp0 : Byte
  /-- RESP1 (R42). -/
  resp1 : Word
  /-- DRESP (R43). -/
  dresp : Byte
  /-- CRC7 (R44, R170). -/
  crc7 : BitVec 7
  /-- CRC16 (R45, R185). -/
  crc16 : BitVec 16
  /-- BUSCTL (R46). -/
  bus : BusCtl
  /-- FAULT.FAULTCODE (R47). -/
  faultCode : FaultCode
  /-- `eng.cont` and `eng.active` (R51). -/
  cont : Cont
  /-- `init` (R52). -/
  init : InitRegs
  /-- `wire`, oldest event first (R53). -/
  wire : List WireEvent
  /-- System memory (R80 (2), R81). -/
  mem : Mem
  /-- The implementation parameters of R13; no step changes them. -/
  params : Params
  /-- The model's own: what the Host does next, the head first. -/
  hostq : List HostAction
  /-- The model's own: the value the last Host load returned. -/
  rdata : Word
  /-- The model's own: the Card's next answers as the environment scripts them, then `Config.cardAnswer` (R12). -/
  card : List Byte
  /-- The model's own: the counter that free values are drawn at. -/
  draws : Nat
  /-- The model's own: the addresses the Host stored to since its last barrier (R94 (a)). -/
  hostStores : List Nat
  /-- The model's own: the addresses whose Host stores no barrier ordered before the launch of the WRITE_BLOCK that
  runs (R94 (a)). -/
  unordered : List Nat
  /-- The model's own: the addresses the Engine wrote that no barrier has ordered before the Host's loads (R94 (b)). -/
  engStores : List Nat
  /-- The model's own: those of `engStores` whose end of transfer the Host has seen, that is that were there when it
  last read STATUS with DONE = 1 or XFER = 0: its next barrier orders them (R94 (b)). -/
  seenStores : List Nat
  deriving DecidableEq, Repr

/-- The model-level faults: each ends the run. The block's own faults (R320) are no such faults: they are next states. -/
inductive Fault where
  /-- Raised by a Host access to the buffer the Engine owns (R91, R323, U5). Safe: every claim is void from there. -/
  | bufferRace
  /-- Raised by a Host access to system memory that the platform does not serve (U19, log 14). Safe: the model stops. -/
  | hostAccessNotAdmitted
  /-- Raised by an exchange while BUS_EN = 0 (R375), which no run reaches. Safe: the model stops. -/
  | exchangeOnDisabledBus
  /-- Raised by an exchange while STATUS.FAULT = 1 (R375), which no run reaches. Safe: the model stops. -/
  | exchangeAfterFault
  deriving DecidableEq, Repr

/-- Why a step gives no meaning. -/
inductive Refusal where
  /-- Raised by an arm of `exec` that has no meaning yet. Safe: the model stops. -/
  | notModelled (mnemonic : String)
  /-- Raised by `step` when the parameters are outside their domain (R324 (a)). Safe: the spec refuses them too. -/
  | parametersOutsideDomain
  /-- Raised by `step` when a wire item the Host issues is no instruction (log 21). Safe: the model stops. -/
  | undecodable (why : DecodeError)
  deriving DecidableEq, Repr

/-- The latch at reset (R50, R59). -/
def Latch.reset : Latch where
  op := 0
  idx := 0
  rtype := .r1
  arg := 0
  data := 0
  buf := 0
  level := 0

/-- STATUS at reset: 0x00000000 (R59). -/
def Status.reset : Status where
  done := false
  err := false
  xfer := false
  poll := false
  fault := false
  cardState := .uninitialized
  errCode := .none

/-- BUSCTL at reset: bus disabled, chip-select released, slow clock, byte width, level 0 (R59). -/
def BusCtl.reset : BusCtl where
  busEn := false
  cs := false
  speedOp := false
  width32 := false
  level := 0

/-- The machine right after power-on reset: every register and internal field as R59 says, nothing listed in memory,
the parameters at their defaults, no Host action and no scripted Card answer. The model's own fields hold the values
of log 24. -/
def State.reset : State where
  lat := Latch.reset
  status := Status.reset
  config := { ie := false, level := 0 }
  cmdIdx := { idx := 0, rtype := .r1 }
  cmdArg := 0
  data := 0
  bufAddr := 0
  resp0 := 0
  resp1 := 0
  dresp := 0
  crc7 := 0
  crc16 := 0
  bus := BusCtl.reset
  faultCode := .none
  cont := .idle
  init := { phase := .idle, attempt := 0, absent := 0 }
  wire := []
  mem := []
  params := Params.default
  hostq := []
  rdata := 0
  card := []
  draws := 0
  hostStores := []
  unordered := []
  engStores := []
  seenStores := []

end Sys2Proof.Machine
end

