-- ==== Sys2Proof/Machine/Flags.lean ====
section
/-! DEFINITION. The codes of the named fields, the words that STATUS, CONFIG, CMDIDX and BUSCTL read as, the write-one-
to-clear of STATUS, and the interrupt output (spec/10_state.md R34 to R47, R54). -/
namespace Sys2Proof.Machine

/-- CARD_STATE's encoding (R48). -/
def CardState.code : CardState → BitVec 2
  | .uninitialized => 0
  | .resetAcknowledged => 1
  | .voltageNegotiated => 2
  | .ready => 3

/-- ERRCODE's encoding (R310). -/
def ErrCode.code : ErrCode → BitVec 4
  | .none => 0
  | .r1Timeout => 1
  | .r1Error => 2
  | .busyTimeout => 3
  | .tokenTimeout => 4
  | .tokenFraming => 5
  | .dataCrc => 6
  | .drespTimeout => 7
  | .writeRejected => 8
  | .initCardAbsent => 9
  | .initIdleFailed => 10
  | .initIfcondFailed => 11
  | .initCrconFailed => 12
  | .initOpcondFailed => 13
  | .initOcrFailed => 14
  | .initBlocklenFailed => 15

/-- FAULTCODE's encoding (R320). -/
def FaultCode.code : FaultCode → BitVec 4
  | .none => 0
  | .opWhileBusy => 1
  | .reservedOp => 2
  | .busDisabled => 3
  | .notReady => 4
  | .notSelected => 5
  | .dmaBusError => 6
  | .regAccess => 7

/-- RTYPE's encoding (R37). -/
def RespType.code : RespType → BitVec 2
  | .r1 => 0
  | .r1b => 1
  | .r3r7 => 2
  | .r2 => 3

/-- RTYPE read from its code: all four values are defined (R104). -/
def RespType.ofCode (c : BitVec 2) : RespType :=
  match c.toNat with
  | 0 => .r1
  | 1 => .r1b
  | 2 => .r3r7
  | _ => .r2

/-- PHASE's encoding (R271). -/
def Phase.code : Phase → BitVec 4
  | .idle => 0
  | .clocks => 1
  | .goIdle => 2
  | .ifCond => 3
  | .crcOn => 4
  | .appCmd => 5
  | .opCond => 6
  | .speedUp => 7
  | .readOcr => 8
  | .blockLen => 9

/-- STATUS.BUSY, equal to `eng.active` (R35, R51): the sequence is not empty. -/
def State.busy (s : State) : Bool :=
  match s.cont with
  | .idle => false
  | _ => true

/-- STATUS as a read returns it (R35). -/
def State.statusWord (s : State) : Word :=
  0#16 ++ s.init.phase.code ++ s.status.errCode.code ++ s.status.cardState.code
    ++ BitVec.ofBool s.status.fault ++ BitVec.ofBool s.status.poll ++ BitVec.ofBool s.status.xfer
    ++ BitVec.ofBool s.status.err ++ BitVec.ofBool s.status.done ++ BitVec.ofBool s.busy

/-- CONFIG as a read returns it (R36). -/
def ConfigReg.word (c : ConfigReg) : Word :=
  0#26 ++ c.level ++ 0#3 ++ BitVec.ofBool c.ie

/-- CONFIG as a write sets it: the reserved bits ignore writes (R33, R36). -/
def ConfigReg.ofWord (v : Word) : ConfigReg where
  ie := v.getLsbD 0
  level := v.extractLsb' 4 2

/-- CMDIDX as a read returns it (R37). -/
def CmdIdxReg.word (c : CmdIdxReg) : Word :=
  0#22 ++ c.rtype.code ++ 0#2 ++ c.idx

/-- CMDIDX as a write sets it: the reserved bits ignore writes (R33, R37). -/
def CmdIdxReg.ofWord (v : Word) : CmdIdxReg where
  idx := v.extractLsb' 0 6
  rtype := RespType.ofCode (v.extractLsb' 8 2)

/-- BUSCTL as a read returns it (R46). -/
def BusCtl.word (b : BusCtl) : Word :=
  0#26 ++ b.level ++ BitVec.ofBool b.width32 ++ BitVec.ofBool b.speedOp ++ BitVec.ofBool b.cs ++ BitVec.ofBool b.busEn

/-- A write of v to STATUS: a 1 in bit 1 clears DONE, a 1 in bit 2 clears ERR and ERRCODE, every other bit is ignored
(R35). -/
def clearStatus (v : Word) (t : Status) : Status :=
  { t with
    done := t.done && !v.getLsbD 1
    err := t.err && !v.getLsbD 2
    errCode := if v.getLsbD 2 then .none else t.errCode }

/-- The interrupt output `irq = IE & (DONE | FAULT)`, a level with no state of its own (R54, R325). -/
def State.irq (s : State) : Bool :=
  s.config.ie && (s.status.done || s.status.fault)

end Sys2Proof.Machine
end

