-- ==== Sys2Proof/Machine/Ops.lean ====
section
/-! DEFINITION. The named operations over memory, the bus and the sequencer: one byte of memory, chip-select, one
exchange (R140), the two finishes (R318, R319), raising a fault (R321), and the launch (R313, R314, R316). -/
namespace Sys2Proof.Machine

/-- What a step, a meaning and a Host access answer. -/
abbrev Result := Host.Outcome State Fault Refusal

/-- What a byte of system memory that nothing has written reads as (DESIGN CHOICE, log 6; unsafe). -/
def Mem.unlisted : Byte := 0

/-- One byte of system memory (R81). -/
def Mem.read : Mem → Nat → Byte
  | [], _ => Mem.unlisted
  | (k, v) :: rest, a => if k = a then v else Mem.read rest a

/-- One byte of system memory written, in canonical form (R18, R81). -/
def Mem.write : Mem → Nat → Byte → Mem
  | [], a, b => if b = Mem.unlisted then [] else [(a, b)]
  | (k, v) :: rest, a, b =>
    if a < k then (if b = Mem.unlisted then (k, v) :: rest else (a, b) :: (k, v) :: rest)
    else if a = k then (if b = Mem.unlisted then rest else (a, b) :: rest)
    else (k, v) :: Mem.write rest a b

/-- The canonical form from address `lo` up: addresses strictly rising, no entry that reads as an unlisted byte. -/
def Mem.wfFrom : Nat → Mem → Bool
  | _, [] => true
  | lo, (k, v) :: rest => decide (lo ≤ k) && v != Mem.unlisted && Mem.wfFrom (k + 1) rest

/-- Memory is in canonical form. -/
def Mem.wf (m : Mem) : Bool := Mem.wfFrom 0 m

/-- `MemAdmits(addr, n)`: the n bytes from addr on lie in one range that the platform's memory serves (R18, R88, U19). -/
def memAdmits (p : Params) (addr n : Nat) : Bool :=
  p.admitted.any (fun r => decide (r.1 ≤ addr) && decide (addr + n ≤ r.1 + r.2))

/-- An address put into a list of addresses once. -/
def addAddr (a : Nat) (l : List Nat) : List Nat :=
  if l.contains a then l else a :: l

/-- BUSCTL.CS set to b: a change appends `(cs-change, b)` to the wire, no change appends nothing (R142). -/
def setCs (b : Bool) (s : State) : State :=
  if s.bus.cs = b then s
  else { s with bus := { s.bus with cs := b }, wire := s.wire ++ [.csChange b] }

/-- The bus enable, the clock select and the word size set as BUS_ENABLE, BUS_DISABLE, INIT's start, INIT's failure and
a fault set them, chip-select released (R146, R147, R272, R282, R321). LEVEL is kept. -/
def resetBus (enable : Bool) (s : State) : State :=
  let s := setCs false s
  { s with bus := { s.bus with busEn := enable, speedOp := false, width32 := false } }

/-- The Card's answer to the byte tx: the scripted one where there is one, else a free value (R12, R140). -/
def cardAnswer (tx : Byte) (s : State) : Byte × State :=
  match s.card with
  | b :: rest => (b, { s with card := rest })
  | [] => (Config.cardAnswer s.draws s.wire s.bus.cs tx, { s with draws := s.draws + 1 })

/-- `exchange(tx)` (R20, R140): the Card answers, and one event is appended to the wire. -/
def exchange (tx : Byte) (s : State) : Byte × State :=
  let (rx, t) := cardAnswer tx s
  (rx, { t with wire := t.wire ++ [.exchange t.bus.cs t.bus.speedOp t.bus.level tx rx] })

/-- `finish_ok()` (R318). -/
def finishOk (s : State) : State :=
  { s with
    status := { s.status with xfer := false, poll := false, err := false, errCode := .none, done := true }
    bus := { s.bus with width32 := false }
    cont := .idle }

/-- The code of INIT (R101), which `finish_err` treats apart (R319). -/
def initCode : BitVec 5 := 0x12

/-- `finish_err(code)`, the unwind (R319). -/
def finishErr (code : ErrCode) (s : State) : State :=
  let s := setCs false s
  { s with
    status := { s.status with
      xfer := false
      poll := false
      cardState := if s.status.cardState = .ready ∧ s.lat.op ≠ initCode then .uninitialized else s.status.cardState
      errCode := code
      err := true
      done := true }
    bus := { s.bus with width32 := false }
    cont := .idle }

/-- CRC7 and CRC16 after a fault halted a running operation: free values (R322, U2, log 11). With no operation running
they keep their values. -/
def dropRunningCrc (s : State) : State :=
  if s.busy then
    { s with crc7 := Config.haltedCrc7 s.draws, crc16 := Config.haltedCrc16 s.draws, draws := s.draws + 1 }
  else s

/-- `raise Fault(code)` (R321): the block's exception. The first fault is recorded and halts the block, with any
running operation stopped with no further exchange; a later one changes nothing. DONE, ERR and ERRCODE keep their
values. Only reset returns from it (R329, R350 (d)). -/
def raiseFault (code : FaultCode) (s : State) : State :=
  if s.status.fault then s
  else
    let s := resetBus false (dropRunningCrc s)
    { s with
      faultCode := code
      status := { s.status with fault := true, xfer := false, poll := false, cardState := .uninitialized }
      init := { s.init with phase := .idle }
      cont := .idle }

/-- The launch requirements of an operation, its row of the table of R313. -/
structure Needs where
  bus : Bool := false
  ready : Bool := false
  cs : Bool := false
  buffer : Bool := false
  deriving DecidableEq, Repr

/-- The buffer check on BUFADDR: no wrap-around, and the 512 bytes are admitted (R88, R316 step 7, C9). -/
def bufferOk (s : State) : Bool :=
  decide (s.bufAddr.toNat + 511 ≤ 0xFFFFFFFF) && memAdmits s.params s.bufAddr.toNat sectorBytes

/-- The first requirement of R313 that fails, in the order of R316 steps 4 to 7. -/
def missing (n : Needs) (s : State) : Option FaultCode :=
  if n.bus && !s.bus.busEn then some .busDisabled
  else if n.ready && !decide (s.status.cardState = .ready) then some .notReady
  else if n.cs && !s.bus.cs then some .notSelected
  else if n.buffer && !bufferOk s then some .dmaBusError
  else none

/-- The check order of R316 for one 32-bit write to OPCODE: after a fault the write is ignored, while an operation
runs it raises OP_WHILE_BUSY, then the operation's own checks, then the launch. -/
def launchGate (check : State → Option FaultCode) (go : State → State) (s : State) : Result :=
  if s.status.fault then .next s
  else if s.busy then .next (raiseFault .opWhileBusy s)
  else match check s with
    | some code => .next (raiseFault code s)
    | none => .next (go s)

/-- The operand latch and the cleared completion bits of a launch (R50, R314). -/
def latchOperands (op : BitVec 5) (s : State) : State :=
  { s with
    lat := { op := op, idx := s.cmdIdx.idx, rtype := s.cmdIdx.rtype, arg := s.cmdArg, data := s.data,
             buf := s.bufAddr, level := s.config.level }
    status := { s.status with done := false, err := false, errCode := .none } }

/-- An immediate operation: launch, body and finish within the one write (R317). -/
def launchImmediate (op : BitVec 5) (n : Needs) (body : State → State) (s : State) : Result :=
  launchGate (missing n) (fun s => finishOk (body (latchOperands op s))) s

/-- A multi-step operation: the launch actions of R314 and the start of its sequence; the Engine runs it from its next
step (R314, R317). -/
def launchSteps (op : BitVec 5) (n : Needs) (start : State → State) (s : State) : Result :=
  launchGate (missing n) (fun s => start (latchOperands op s)) s

/-- The launch actions that READ_BLOCK and WRITE_BLOCK add: CRC16 cleared and XFER set (R187, R314). -/
def armData (s : State) : State :=
  { s with crc16 := 0, status := { s.status with xfer := true } }

end Sys2Proof.Machine
end

