-- ==== Sys2Proof/Machine/Operands.lean ====
section
/-! DEFINITION. Every operand form: the bit ranges of the latch that the operations read (spec/30_encoding.md R102,
R104), the commands INIT sends (spec/43_command_transaction.md R211 to R217), a frame's bytes, the tokens. -/
namespace Sys2Proof.Machine

/-- `lat.data[7:0]` (R102). -/
def Latch.byte (l : Latch) : Byte := l.data.extractLsb' 0 8

/-- `lat.data[0]` (R102). -/
def Latch.bit0 (l : Latch) : Bool := l.data.getLsbD 0

/-- `lat.buf[1:0] = 0`: the buffer is word-aligned (R84). -/
def Latch.wordAligned (l : Latch) : Bool := l.buf.extractLsb' 0 2 == 0#2

/-- The system address of data byte i, `lat.buf + i` (R83, R86). -/
def Latch.byteAddr (l : Latch) (i : Fin 512) : Nat := (l.buf + BitVec.ofNat 32 i.val).toNat

/-- Byte k of a word in the transport's natural order: bits 7:0 first (R89 (c), R153). -/
def natByte (w : Word) (k : Fin 4) : Byte := w.extractLsb' (8 * k.val) 8

/-- The word with received byte k put in place in the natural order (R89 (c), R153). -/
def putNatByte (got : Word) (k : Fin 4) (rx : Byte) : Word := got ||| (rx.setWidth 32 <<< (8 * k.val))

/-- One more trailing byte, most significant first (R206). -/
def shiftInByte (got : Word) (rx : Byte) : Word := (got <<< 8) ||| rx.setWidth 32

/-- The index of an INIT command (R211 to R217). -/
def InitCmd.idx : InitCmd → BitVec 6
  | .goIdle => 0
  | .ifCond => 8
  | .crcOn => 59
  | .appCmd => 55
  | .opCond => 41
  | .readOcr => 58
  | .blockLen => 16

/-- The argument of an INIT command (R211 to R217, D20). -/
def InitCmd.arg : InitCmd → Word
  | .goIdle => 0x00000000
  | .ifCond => 0x000001AA
  | .crcOn => 0x00000001
  | .appCmd => 0x00000000
  | .opCond => 0x40000000
  | .readOcr => 0x00000000
  | .blockLen => 0x00000200

/-- The response type of an INIT command (R211 to R217). None is R1b (R273). -/
def InitCmd.rtype : InitCmd → RespType
  | .goIdle => .r1
  | .ifCond => .r3r7
  | .crcOn => .r1
  | .appCmd => .r1
  | .opCond => .r1
  | .readOcr => .r3r7
  | .blockLen => .r1

/-- The phase in which INIT sends a command (R271). -/
def InitCmd.phase : InitCmd → Phase
  | .goIdle => .goIdle
  | .ifCond => .ifCond
  | .crcOn => .crcOn
  | .appCmd => .appCmd
  | .opCond => .opCond
  | .readOcr => .readOcr
  | .blockLen => .blockLen

/-- Whether sending the command begins an attempt that `init.attempt` counts: phase d counts none (R277), and a round
of phase e is counted at its CMD55 (R278). -/
def InitCmd.countsAttempt : InitCmd → Bool
  | .goIdle => true
  | .ifCond => true
  | .crcOn => false
  | .appCmd => true
  | .opCond => false
  | .readOcr => true
  | .blockLen => true

/-- The index of the transaction's command (R208, R273). -/
def Caller.idx (c : Caller) (l : Latch) : BitVec 6 :=
  match c with
  | .cmdSend => l.idx
  | .init cmd _ => cmd.idx

/-- The argument of the transaction's command (R208, R273). -/
def Caller.arg (c : Caller) (l : Latch) : Word :=
  match c with
  | .cmdSend => l.arg
  | .init cmd _ => cmd.arg

/-- The response type of the transaction (R208, R273). -/
def Caller.rtype (c : Caller) (l : Latch) : RespType :=
  match c with
  | .cmdSend => l.rtype
  | .init cmd _ => cmd.rtype

/-- Byte k of a command frame (R110, R200). -/
def frameByte (idx : BitVec 6) (arg : Word) (k : Fin 6) : Byte :=
  (frameBytes idx arg).getD k.val 0xFF

/-- The fill byte: what the block sends when it only wants to receive (R111). -/
def fill : Byte := 0xFF

/-- The start token of a read, and of a single-block write (R115). -/
def startTokenByte : Byte := 0xFE

/-- The start token of a block of a multi-block write (R115). -/
def startTokenMultiByte : Byte := 0xFC

/-- The stop-transmission token (R115). -/
def stopTokenByte : Byte := 0xFD

/-- WRITE_BLOCK's start token: `lat.data[0]` selects it (R241). -/
def Latch.startToken (l : Latch) : Byte :=
  if l.bit0 then startTokenMultiByte else startTokenByte

/-- A data-response token from its fields: `xxx0sss1` (R117). -/
def responseByte (ignored status : BitVec 3) : Byte :=
  ignored ++ 0#1 ++ status ++ 1#1

/-- A polled byte is R1 when its bit 7 is 0 (R113, R203). -/
def isR1 (b : Byte) : Bool := !b.getLsbD 7

/-- R1 shows an error: one of bits 6..1 is set (R113, R205). -/
def r1HasError (b : Byte) : Bool := (b &&& 0x7E#8) != 0#8

/-- The write is accepted (R117, R245). -/
def responseAccepted (b : Byte) : Bool := (b &&& 0x1F#8) == 0x05#8

/-- The R7 tail echoes the voltage code and the check pattern: bits 11:0 are 0x1AA (R276). -/
def echoMatches (tail : Option Word) : Bool :=
  match tail with
  | some v => v.extractLsb' 0 12 == 0x1AA#12
  | none => false

/-- BUFADDR's 512 bytes, the range the Engine owns while XFER = 1, hold address a (R90). -/
def Latch.owns (l : Latch) (a : Nat) : Bool :=
  decide (l.buf.toNat ≤ a) && decide (a ≤ l.buf.toNat + 511)

end Sys2Proof.Machine
end

