-- ==== Sys2Proof/Machine/Engine.lean ====
section
/-! DEFINITION. The Engine: one step is one byte exchange with the register updates its rule attaches to it
(spec/00_scope.md R11, spec/10_state.md R51). A step has three parts: what the rule sets up before the exchange
(`enginePrepare`), the byte sent (`engineTx`), and what it does after the exchange (`engineAbsorb`), up to the next
exchange's own set-up (log 7). -/
namespace Sys2Proof.Machine

/-! ### INIT: start, results, ending (spec/45_init_fsm.md) -/

/-- `start()` and the entry of phase a, in the step of the first exchange (R270, R272, R274). -/
def initStart (s : State) : State :=
  let s := resetBus true s
  { s with
    status := { s.status with cardState := .uninitialized }
    init := { phase := .clocks, attempt := 0, absent := 0 } }

/-- The results of INIT's last transactions reach RESP0 and RESP1 (R55, R93, R273, R282, R283, log 9). -/
def commitPending (pend : Pending) (s : State) : State :=
  { s with resp0 := pend.r0.getD s.resp0, resp1 := pend.r1.getD s.resp1 }

/-- `fail(code)` (R282). -/
def initFail (code : ErrCode) (pend : Pending) (s : State) : State :=
  let s := resetBus false (commitPending pend s)
  finishErr code
    { s with
      status := { s.status with cardState := .uninitialized }
      init := { s.init with phase := .idle } }

/-- The entry of a phase that sends cmd: `init.attempt <- 0`, then its first transaction (R270). -/
def initEnter (cmd : InitCmd) (pend : Pending) (s : State) : State :=
  { s with init := { s.init with attempt := 0 }, cont := .frame (.init cmd pend) 0 }

/-- The next transaction of the same phase (R275 to R281). -/
def initAgain (cmd : InitCmd) (pend : Pending) (s : State) : State :=
  { s with cont := .frame (.init cmd pend) 0 }

/-- The end of one attempt: the phase fails when its bound is reached, else its next transaction begins
(R275 to R281). -/
def initRetry (limit : Nat) (code : ErrCode) (cmd : InitCmd) (pend : Pending) (s : State) : State :=
  if limit ≤ s.init.attempt then initFail code pend s else initAgain cmd pend s

/-- CARD_STATE moved forward (R290). -/
def setCardState (c : CardState) (s : State) : State :=
  { s with status := { s.status with cardState := c } }

/-- What the phase does with the result of its transaction, after the trailing byte (R275 to R281). -/
def initConclude (cmd : InitCmd) (st : TxnStatus) (r1 : Byte) (tail : Option Word) (pend : Pending) (s : State) :
    State :=
  match cmd with
  | .goIdle =>
    if st = .ok ∧ r1 = 0x01 then initEnter .ifCond pend (setCardState .resetAcknowledged s)
    else
      let absent := if st = .timeout then s.init.absent + 1 else 0
      let s := { s with init := { s.init with absent := absent } }
      if s.params.cmd0AbsentLimit ≤ absent then initFail .initCardAbsent pend s
      else initRetry s.params.cmd0Limit .initIdleFailed .goIdle pend s
  | .ifCond =>
    if st = .ok ∧ r1 = 0x01 ∧ echoMatches tail then initEnter .crcOn pend (setCardState .voltageNegotiated s)
    else initRetry s.params.cmd8Limit .initIfcondFailed .ifCond pend s
  | .crcOn =>
    if st = .ok then initEnter .appCmd pend s else initFail .initCrconFailed pend s
  | .appCmd =>
    if st = .ok then initAgain .opCond pend s
    else initRetry s.params.acmd41Limit .initOpcondFailed .appCmd pend s
  | .opCond =>
    if st = .ok ∧ r1 = 0x00 then { s with cont := .speedUp pend }
    else initRetry s.params.acmd41Limit .initOpcondFailed .appCmd pend s
  | .readOcr =>
    if st = .ok ∧ r1 = 0x00 then initEnter .blockLen pend s
    else initRetry s.params.cmd58Limit .initOcrFailed .readOcr pend s
  | .blockLen =>
    if st = .ok ∧ r1 = 0x00 then
      let s := setCardState .ready (commitPending pend s)
      finishOk { s with init := { s.init with phase := .idle } }
    else initRetry s.params.cmd16Limit .initBlocklenFailed .blockLen pend s

/-! ### The command transaction (spec/43_command_transaction.md) -/

/-- The end of CMD_SEND: RESP0, RESP1 and the finish (R208, R210). -/
def cmdSendFinish (st : TxnStatus) (r1 : Byte) (tail : Option Word) (s : State) : State :=
  match st with
  | .ok => finishOk { s with resp0 := r1, resp1 := tail.getD s.resp1 }
  | .timeout => finishErr .r1Timeout { s with resp0 := r1 }
  | .rerror => finishErr .r1Error { s with resp0 := r1 }
  | .busyTo => finishErr .busyTimeout { s with resp0 := r1 }

/-- The transaction returns to its caller: CMD_SEND finishes, INIT holds the results and sends its trailing byte
(R208, R273). -/
def txnReturn (c : Caller) (st : TxnStatus) (r1 : Byte) (tail : Option Word) (s : State) : State :=
  match c with
  | .cmdSend => cmdSendFinish st r1 tail s
  | .init cmd pend =>
    let kept := match tail with
      | some v => if st = .ok then some v else pend.r1
      | none => pend.r1
    { s with cont := .initTrail cmd st r1 tail { r0 := some r1, r1 := kept } }

/-- The set-up of a transaction: chip-select asserted, INIT's phase and attempt count, and CRC7 <- the CRC of the
frame, computed from 0 (R176, R200, R209, R273). -/
def txnStart (c : Caller) (s : State) : State :=
  let s := setCs true s
  let s := { s with crc7 := frameCrc (c.idx s.lat) (c.arg s.lat) }
  match c with
  | .cmdSend => s
  | .init cmd _ =>
    { s with init := { s.init with
        phase := cmd.phase
        attempt := if cmd.countsAttempt then s.init.attempt + 1 else s.init.attempt } }

/-- After R1: an error, or what the response type asks for (R200, R205 to R207). -/
def txnAfterR1 (c : Caller) (r1 : Byte) (s : State) : State :=
  if r1HasError r1 then txnReturn c .rerror r1 none s
  else match c.rtype s.lat with
    | .r1 => txnReturn c .ok r1 none s
    | .r1b => { s with cont := .busy (.txn c r1) 0 }
    | .r3r7 => { s with cont := .trailing c r1 0 0 }
    | .r2 => { s with cont := .trailing c r1 0 0 }

/-- Whether trailing byte k is the last: four for R3 and R7, one for R2 (R206). -/
def lastTrailing (t : RespType) (k : Fin 4) : Bool :=
  match t with
  | .r3r7 => decide (k.val = 3)
  | _ => true

/-! ### The busy poll (spec/44_data_phase.md) -/

/-- The most samples of one busy poll: the fast ones and the background ones (R250). -/
def busyBound (p : Params) : Nat := p.busyFastSamples + p.busyPollLimit

/-- The busy poll has ended, with READY or with TIMEOUT (R207, R240, R250 to R252). -/
def busyReturn (u : BusyUser) (ready : Bool) (s : State) : State :=
  let s := { s with status := { s.status with poll := false } }
  match u with
  | .txn c r1 => txnReturn c (if ready then .ok else .busyTo) r1 none s
  | .writeBlock => if ready then finishOk s else finishErr .busyTimeout s
  | .stopTran => if ready then finishOk s else finishErr .busyTimeout s
  | .busyWait => if ready then finishOk s else finishErr .busyTimeout s

/-! ### The data phase (spec/44_data_phase.md) -/

/-- The byte of system memory the Engine reads (R83). A byte whose Host store no barrier ordered before the launch is
a draw (R94 (a), U4, log 12). -/
def engineLoad (a : Nat) (s : State) : Byte :=
  if s.unordered.contains a then Config.unorderedByte s.draws else s.mem.read a

/-- The next draw, where the Engine's read of address a was one. -/
def countEngineDraw (a : Nat) (s : State) : State :=
  if s.unordered.contains a then { s with draws := s.draws + 1 } else s

/-- The byte of system memory the Engine writes (R83). The Host needs to see the end of this transfer and then a barrier
before it reads the byte (R94 (b)), whatever it has seen of an earlier one. -/
def engineStore (a : Nat) (b : Byte) (s : State) : State :=
  { s with mem := s.mem.write a b, engStores := addAddr a s.engStores
           seenStores := s.seenStores.filter (fun x => x != a) }

/-- One more data byte into the CRC-16 accumulator (R187). -/
def accumulate (d : Byte) (s : State) : State :=
  { s with crc16 := crc16Step s.crc16 d }

/-- The buffer goes back to the Host after the 512th data byte: WIDTH32 and XFER cleared (R84, R90, R232, R240). -/
def releaseBuffer (s : State) : State :=
  { s with status := { s.status with xfer := false }, bus := { s.bus with width32 := false } }

/-- Data byte i is done: the next one, or `next` with the buffer released (R232, R240). -/
def afterDataByte (i : Fin 512) (more : Fin 512 → Cont) (next : Cont) (s : State) : State :=
  if h : i.val + 1 < 512 then { s with cont := more ⟨i.val + 1, h⟩ } else { releaseBuffer s with cont := next }

/-- An early end of READ_BLOCK: XFER cleared, DATA <- the byte, the error (R232, R236). -/
def tokenFail (code : ErrCode) (b : Byte) (s : State) : State :=
  finishErr code { s with status := { s.status with xfer := false }, data := b.setWidth 32 }

/-! ### One Engine step -/

/-- What the rule of the current program point sets up before its exchange. -/
def enginePrepare (s : State) : State :=
  match s.cont with
  | .xferByte => { s with bus := { s.bus with width32 := false } }
  | .xferWord k _ => if k = 0 then { s with bus := { s.bus with width32 := true } } else s
  | .frame c k => if k = 0 then txnStart c s else s
  | .initTrail _ _ _ _ _ => setCs false s
  | .readData i => if i = 0 then { s with bus := { s.bus with width32 := s.lat.wordAligned } } else s
  | .writeData i => if i = 0 then { s with bus := { s.bus with width32 := s.lat.wordAligned } } else s
  | .busy _ _ => { s with status := { s.status with poll := true } }
  | .initClocks k => if k = 0 then initStart s else s
  | .speedUp _ =>
    { s with init := { s.init with phase := .speedUp }
             bus := { s.bus with speedOp := true, level := s.lat.level } }
  | _ => s

/-- The byte the current program point sends, if its step exchanges one. Without an exchange are IDLE_CLOCKS with
count 0 and INIT phase f (R11). -/
def engineTx (s : State) : Option Byte :=
  match s.cont with
  | .idle => none
  | .idleClocks left => if left = 0 then none else some fill
  | .xferByte => some s.lat.byte
  | .xferWord k _ => some (natByte s.lat.data k)
  | .frame c k => some (frameByte (c.idx s.lat) (c.arg s.lat) k)
  | .stuff _ => some fill
  | .r1Poll _ _ => some fill
  | .trailing _ _ _ _ => some fill
  | .initTrail _ _ _ _ _ => some fill
  | .tokenWait _ => some fill
  | .readData _ => some fill
  | .readCrcHi => some fill
  | .readCrcLo _ => some fill
  | .writeToken => some s.lat.startToken
  | .writeData i => some (engineLoad (s.lat.byteAddr i) s)
  | .writeCrcHi => some (s.crc16.extractLsb' 8 8)
  | .writeCrcLo => some (s.crc16.extractLsb' 0 8)
  | .writeResp _ => some fill
  | .stopToken => some stopTokenByte
  | .stopGap => some fill
  | .busy _ _ => some fill
  | .initClocks _ => some fill
  | .speedUp _ => none

/-- A step with no exchange: IDLE_CLOCKS with count 0 finishes (R151), INIT goes on from phase f to phase g (R279). -/
def engineQuiet (s : State) : State :=
  match s.cont with
  | .idleClocks _ => finishOk s
  | .speedUp pend => initEnter .readOcr pend s
  | _ => s

/-- What the rule of the current program point does after its exchange of `tx` for `rx`. -/
def engineAbsorb (tx rx : Byte) (s : State) : State :=
  match s.cont with
  | .idle => s
  | .idleClocks left => if left ≤ 1 then finishOk s else { s with cont := .idleClocks (left - 1) }
  | .xferByte => finishOk { s with data := rx.setWidth 32 }
  | .xferWord k got =>
    let got := putNatByte got k rx
    if h : k.val + 1 < 4 then { s with cont := .xferWord ⟨k.val + 1, h⟩ got } else finishOk { s with data := got }
  | .frame c k =>
    if h : k.val + 1 < 6 then { s with cont := .frame c ⟨k.val + 1, h⟩ }
    else if c.idx s.lat = 12 then { s with cont := .stuff c }
    else { s with cont := .r1Poll c 0 }
  | .stuff c => { s with cont := .r1Poll c 0 }
  | .r1Poll c k =>
    if isR1 rx then txnAfterR1 c rx s
    else if s.params.ncrLimit ≤ k + 1 then txnReturn c .timeout rx none s
    else { s with cont := .r1Poll c (k + 1) }
  | .trailing c r1 k got =>
    let got := shiftInByte got rx
    if lastTrailing (c.rtype s.lat) k then txnReturn c .ok r1 (some got) s
    else if h : k.val + 1 < 4 then { s with cont := .trailing c r1 ⟨k.val + 1, h⟩ got }
    else txnReturn c .ok r1 (some got) s
  | .initTrail cmd st r1 tail pend => initConclude cmd st r1 tail pend s
  | .tokenWait k =>
    if rx = startTokenByte then { s with cont := .readData 0 }
    else if rx ≠ fill then tokenFail .tokenFraming rx s
    else if s.params.tokenPollLimit ≤ k + 1 then tokenFail .tokenTimeout fill s
    else { s with cont := .tokenWait (k + 1) }
  | .readData i =>
    afterDataByte i .readData .readCrcHi (accumulate rx (engineStore (s.lat.byteAddr i) rx s))
  | .readCrcHi => { s with cont := .readCrcLo rx }
  | .readCrcLo hi =>
    let received : BitVec 16 := hi ++ rx
    let s := { s with data := received.setWidth 32 }
    if received = s.crc16 then finishOk s else finishErr .dataCrc s
  | .writeToken => { s with cont := .writeData 0 }
  | .writeData i =>
    afterDataByte i .writeData .writeCrcHi (accumulate tx (countEngineDraw (s.lat.byteAddr i) s))
  | .writeCrcHi => { s with cont := .writeCrcLo }
  | .writeCrcLo => { s with cont := .writeResp 0 }
  | .writeResp k =>
    if rx ≠ fill then
      let s := { s with dresp := rx }
      if responseAccepted rx then { s with cont := .busy .writeBlock 0 } else finishErr .writeRejected s
    else if s.params.drespLimit ≤ k + 1 then finishErr .drespTimeout { s with dresp := fill }
    else { s with cont := .writeResp (k + 1) }
  | .stopToken => { s with cont := .stopGap }
  | .stopGap => { s with cont := .busy .stopTran 0 }
  | .busy u k =>
    if rx = fill then busyReturn u true s
    else if busyBound s.params ≤ k + 1 then busyReturn u false s
    else { s with cont := .busy u (k + 1) }
  | .initClocks k =>
    if s.params.idleClockBytes ≤ k + 1 then initEnter .goIdle { r0 := none, r1 := none } s
    else { s with cont := .initClocks (k + 1) }
  | .speedUp _ => s

/-- One Engine step (R11). With no operation running the Engine does nothing. An exchange on a disabled bus or after a
fault is a model fault (R375); no run reaches one. -/
def engineStep (s : State) : Result :=
  if s.busy then
    let s := enginePrepare s
    match engineTx s with
    | none => .next (engineQuiet s)
    | some tx =>
      if s.status.fault then .fault .exchangeAfterFault
      else if s.bus.busEn then
        let (rx, t) := exchange tx s
        .next (engineAbsorb tx rx t)
      else .fault .exchangeOnDisabledBus
  else .next s

/-- A token row of the opcode table runs: its byte is on the bus at the Engine's next exchange (R23, R115, R117, log
19). Where the Engine is about to send this byte, that exchange sends it; elsewhere the Card answers it, and the rule
of the operation receiving it handles it (R120). With no operation running no exchange happens. -/
def tokenOnBus (b : Byte) (s : State) : Result :=
  if s.busy then
    if engineTx (enginePrepare s) = some b then engineStep s else engineStep { s with card := b :: s.card }
  else .next s

end Sys2Proof.Machine
end

