-- ==== Sys2Proof/Machine/Registers.lean ====
section
/-! DEFINITION. The register window (spec/10_state.md R32 to R47): what a 32-bit read at each offset returns and what a
32-bit write does. The write to OPCODE is no register write: it is the launch of an operation (R34, R314). -/
namespace Sys2Proof.Machine

/-- What a 32-bit read at an aligned offset of the window returns (R32, R55). A read of CRC7 or CRC16 while BUSY = 1
is a draw (R55, R176, R192, U1, log 10). The reserved offsets read as 0 (R33). -/
def regValue (off : Nat) (s : State) : Word :=
  match off with
  | 0x00 => s.lat.op.setWidth 32
  | 0x04 => s.statusWord
  | 0x08 => s.config.word
  | 0x0C => s.cmdIdx.word
  | 0x10 => s.cmdArg
  | 0x14 => s.data
  | 0x18 => s.bufAddr
  | 0x1C => s.resp0.setWidth 32
  | 0x20 => s.resp1
  | 0x24 => s.dresp.setWidth 32
  | 0x28 => (if s.busy then Config.busyCrc7Read s.draws else s.crc7).setWidth 32
  | 0x2C => (if s.busy then Config.busyCrc16Read s.draws else s.crc16).setWidth 32
  | 0x30 => s.bus.word
  | 0x34 => s.faultCode.code.setWidth 32
  | _ => 0

/-- What a read leaves behind. It has no side effect on the block (R99): the model counts a draw, and notes that the
Host has seen the end of every transfer so far where STATUS shows DONE = 1 or XFER = 0 (R94 (b), log 12). -/
def afterRead (off : Nat) (s : State) : State :=
  { s with
    draws := if s.busy && (off == 0x28 || off == 0x2C) then s.draws + 1 else s.draws
    seenStores := if off == 0x04 && (s.status.done || !s.status.xfer) then s.engStores else s.seenStores }

/-- A 32-bit write of v at an aligned offset of the window other than OPCODE's (R33, R56, R99). After a fault every
write is ignored (R57). A write to a read-only register or a reserved offset is ignored (R33). -/
def regWrite (off : Nat) (v : Word) (s : State) : State :=
  if s.status.fault then s
  else match off with
    | 0x04 => { s with status := clearStatus v s.status }
    | 0x08 => { s with config := ConfigReg.ofWord v }
    | 0x0C => { s with cmdIdx := CmdIdxReg.ofWord v }
    | 0x10 => { s with cmdArg := v }
    | 0x14 => { s with data := v }
    | 0x18 => { s with bufAddr := v }
    | _ => s

end Sys2Proof.Machine
end

