-- ==== Sys2Proof/Machine/Command.lean ====
section
/-! DEFINITION. CMD_SEND (spec/43_command_transaction.md R208) and the command-frame rows of the opcode table (R110,
R211 to R223). A frame row runs as the Host's pseudo-instruction `CMD idx, arg, rtype` without its wait (R106): write
CMDIDX, write CMDARG, launch CMD_SEND, which puts this frame on the wire (log 16). The block computes the CRC field
itself (R173, log 18). -/
namespace Sys2Proof.Machine

/-- CMD_SEND's launch (R208, R313, R314). -/
def launchCmdSend (s : State) : Result :=
  launchSteps 0x0D { bus := true } (fun s => { s with cont := .frame .cmdSend 0 }) s

/-- CMD_SEND (R208). -/
def execCmdSend (s : State) : Result :=
  launchCmdSend s

/-- `CMD idx, arg, rtype` up to its launch (R106). -/
def sendCommand (idx : BitVec 6) (rtype : RespType) (arg : Word) (s : State) : Result :=
  launchCmdSend (regWrite 0x10 arg (regWrite 0x0C (CmdIdxReg.word { idx := idx, rtype := rtype }) s))

/-- The frame of any index: the response type is the one CMDIDX.RTYPE holds (R110, R112, log 17). The CRC field is
the block's to compute. -/
def execSdFrame (idx : BitVec 6) (arg : Word) (s : State) : Result :=
  sendCommand idx s.cmdIdx.rtype arg s

/-- CMD0 GO_IDLE_STATE, R1 (R211). -/
def execCmd0 (arg : Word) (s : State) : Result := sendCommand 0 .r1 arg s

/-- CMD8 SEND_IF_COND, R7 (R212). -/
def execCmd8 (arg : Word) (s : State) : Result := sendCommand 8 .r3r7 arg s

/-- CMD59 CRC_ON_OFF, R1 (R213). -/
def execCmd59 (arg : Word) (s : State) : Result := sendCommand 59 .r1 arg s

/-- CMD55 APP_CMD, R1 (R214). -/
def execCmd55 (arg : Word) (s : State) : Result := sendCommand 55 .r1 arg s

/-- The frame of ACMD41 SD_SEND_OP_COND, R1 (R215); its prefix is CMD55, a frame of its own (R119). -/
def execAcmd41 (arg : Word) (s : State) : Result := sendCommand 41 .r1 arg s

/-- CMD58 READ_OCR, R3 (R216). -/
def execCmd58 (arg : Word) (s : State) : Result := sendCommand 58 .r3r7 arg s

/-- CMD16 SET_BLOCKLEN, R1 (R217). -/
def execCmd16 (arg : Word) (s : State) : Result := sendCommand 16 .r1 arg s

/-- CMD17 READ_SINGLE_BLOCK, R1 (R218). -/
def execCmd17 (arg : Word) (s : State) : Result := sendCommand 17 .r1 arg s

/-- CMD18 READ_MULTIPLE_BLOCK, R1 (R219). -/
def execCmd18 (arg : Word) (s : State) : Result := sendCommand 18 .r1 arg s

/-- CMD12 STOP_TRANSMISSION, R1b (R220). -/
def execCmd12 (arg : Word) (s : State) : Result := sendCommand 12 .r1b arg s

/-- CMD24 WRITE_BLOCK, R1 (R221). -/
def execCmd24 (arg : Word) (s : State) : Result := sendCommand 24 .r1 arg s

/-- CMD25 WRITE_MULTIPLE_BLOCK, R1 (R222). -/
def execCmd25 (arg : Word) (s : State) : Result := sendCommand 25 .r1 arg s

/-- The frame of ACMD23 SET_WR_BLK_ERASE_COUNT, R1 (R223); its prefix is CMD55, a frame of its own (R119). -/
def execAcmd23 (arg : Word) (s : State) : Result := sendCommand 23 .r1 arg s

end Sys2Proof.Machine
end

