-- ==== Sys2Proof/Machine/CrcUnits.lean ====
section
/-! DEFINITION. The operations of the two CRC units on their own (spec/41_crc7_encoder.md R174, R175 and
spec/42_crc16_accumulator.md R188, R189). None needs the bus. -/
namespace Sys2Proof.Machine

/-- CRC7_CLEAR (R174). -/
def execCrc7Clear (s : State) : Result :=
  launchImmediate 0x09 {} (fun s => { s with crc7 := 0 }) s

/-- CRC7_FEED of `lat.data[7:0]` (R175). -/
def execCrc7Feed (s : State) : Result :=
  launchImmediate 0x0A {} (fun s => { s with crc7 := crc7Step s.crc7 s.lat.byte }) s

/-- CRC16_CLEAR (R188). -/
def execCrc16Clear (s : State) : Result :=
  launchImmediate 0x0B {} (fun s => { s with crc16 := 0 }) s

/-- CRC16_FEED of `lat.data[7:0]` (R189). -/
def execCrc16Feed (s : State) : Result :=
  launchImmediate 0x0C {} (fun s => accumulate s.lat.byte s) s

end Sys2Proof.Machine
end

