-- ==== Sys2Proof/Machine/DataPhase.lean ====
section
/-! DEFINITION. The data-phase operations (spec/44_data_phase.md): READ_BLOCK, WRITE_BLOCK, STOP_TRAN, BUSY_WAIT, and
the token rows of the opcode table (spec/30_encoding.md R115, R117). -/
namespace Sys2Proof.Machine

/-- READ_BLOCK (R232): the launch clears CRC16 and gives the buffer to the Engine. -/
def execReadBlock (s : State) : Result :=
  launchSteps 0x0E { bus := true, ready := true, cs := true, buffer := true }
    (fun s => { armData s with cont := .tokenWait 0 }) s

/-- WRITE_BLOCK (R240). The Host stores that no barrier has ordered before this launch stay unordered for it
(R94 (a)). -/
def execWriteBlock (s : State) : Result :=
  launchSteps 0x0F { bus := true, ready := true, cs := true, buffer := true }
    (fun s => { armData s with cont := .writeToken, unordered := s.hostStores }) s

/-- STOP_TRAN (R252). -/
def execStopTran (s : State) : Result :=
  launchSteps 0x10 { bus := true, ready := true, cs := true } (fun s => { s with cont := .stopToken }) s

/-- BUSY_WAIT (R251). -/
def execBusyWait (s : State) : Result :=
  launchSteps 0x11 { bus := true, cs := true } (fun s => { s with cont := .busy .busyWait 0 }) s

/-- The start token 0xFE: READ_BLOCK looks for it, WRITE_BLOCK with `data[0] = 0` sends it (R115). -/
def execStartToken (s : State) : Result := tokenOnBus startTokenByte s

/-- The start token 0xFC: WRITE_BLOCK with `data[0] = 1` sends it (R115). -/
def execStartTokenMulti (s : State) : Result := tokenOnBus startTokenMultiByte s

/-- The stop-transmission token 0xFD: STOP_TRAN sends it (R115). -/
def execStopToken (s : State) : Result := tokenOnBus stopTokenByte s

/-- A data-response token: the Card answers it and WRITE_BLOCK receives it (R117, R243 to R245). -/
def execDataResponse (ignored status : BitVec 3) (s : State) : Result := tokenOnBus (responseByte ignored status) s

end Sys2Proof.Machine
end

