-- ==== Sys2Proof/Machine/InitOp.lean ====
section
/-! DEFINITION. INIT (spec/45_init_fsm.md R270). Its phases are the Engine's (Machine/Engine.lean). -/
namespace Sys2Proof.Machine

/-- INIT's launch: from any card state and with the bus disabled (R270, R313). `start` runs in the first Engine step
(R272). -/
def execInit (s : State) : Result :=
  launchSteps initCode {} (fun s => { s with cont := .initClocks 0 }) s

end Sys2Proof.Machine
end

