-- ==== Sys2Proof/Machine/Reserved.lean ====
section
/-! DEFINITION. The reserved operation codes 0x13 to 0x1F (spec/30_encoding.md R103): each raises RESERVED_OP, after
the checks that come before it (spec/60_exceptions.md R316 steps 1 to 3). -/
namespace Sys2Proof.Machine

/-- A launch with a reserved code (R103, R316). -/
def launchReserved (s : State) : Result :=
  launchGate (fun _ => some .reservedOp) (fun s => s) s

/-- The reserved code 0x13 (R103). -/
def execReserved13 (s : State) : Result := launchReserved s

/-- The reserved code 0x14 (R103). -/
def execReserved14 (s : State) : Result := launchReserved s

/-- The reserved code 0x15 (R103). -/
def execReserved15 (s : State) : Result := launchReserved s

/-- The reserved code 0x16 (R103). -/
def execReserved16 (s : State) : Result := launchReserved s

/-- The reserved code 0x17 (R103). -/
def execReserved17 (s : State) : Result := launchReserved s

/-- The reserved code 0x18 (R103). -/
def execReserved18 (s : State) : Result := launchReserved s

/-- The reserved code 0x19 (R103). -/
def execReserved19 (s : State) : Result := launchReserved s

/-- The reserved code 0x1A (R103). -/
def execReserved1A (s : State) : Result := launchReserved s

/-- The reserved code 0x1B (R103). -/
def execReserved1B (s : State) : Result := launchReserved s

/-- The reserved code 0x1C (R103). -/
def execReserved1C (s : State) : Result := launchReserved s

/-- The reserved code 0x1D (R103). -/
def execReserved1D (s : State) : Result := launchReserved s

/-- The reserved code 0x1E (R103). -/
def execReserved1E (s : State) : Result := launchReserved s

/-- The reserved code 0x1F (R103). -/
def execReserved1F (s : State) : Result := launchReserved s

end Sys2Proof.Machine
end

