-- ==== Sys2Proof/Machine/Serializer.lean ====
section
/-! DEFINITION. The serializer operations (spec/40_spi_serializer.md R145 to R153): NOP, BUS_ENABLE, BUS_DISABLE,
CS_ASSERT, CS_RELEASE, SET_SPEED, IDLE_CLOCKS, XFER_BYTE, XFER_WORD. -/
namespace Sys2Proof.Machine

/-- NOP (R145). -/
def execNop (s : State) : Result :=
  launchImmediate 0x00 {} (fun s => s) s

/-- BUS_ENABLE (R146). -/
def execBusEnable (s : State) : Result :=
  launchImmediate 0x01 {} (resetBus true) s

/-- BUS_DISABLE: the bus and the card session end (R147). -/
def execBusDisable (s : State) : Result :=
  launchImmediate 0x02 {}
    (fun s => let s := resetBus false s; { s with status := { s.status with cardState := .uninitialized } }) s

/-- CS_ASSERT (R148). -/
def execCsAssert (s : State) : Result :=
  launchImmediate 0x03 { bus := true } (setCs true) s

/-- CS_RELEASE (R149). -/
def execCsRelease (s : State) : Result :=
  launchImmediate 0x04 {} (setCs false) s

/-- SET_SPEED: `lat.data[0]` selects the slow clock, or the operating clock at `lat.level` (R150). -/
def execSetSpeed (s : State) : Result :=
  launchImmediate 0x05 {}
    (fun s =>
      if s.lat.bit0 then { s with bus := { s.bus with speedOp := true, level := s.lat.level } }
      else { s with bus := { s.bus with speedOp := false } }) s

/-- IDLE_CLOCKS: `lat.data[7:0]` bytes of 0xFF (R151). -/
def execIdleClocks (s : State) : Result :=
  launchSteps 0x06 { bus := true } (fun s => { s with cont := .idleClocks s.lat.byte.toNat }) s

/-- XFER_BYTE (R152). -/
def execXferByte (s : State) : Result :=
  launchSteps 0x07 { bus := true } (fun s => { s with cont := .xferByte }) s

/-- XFER_WORD (R153). -/
def execXferWord (s : State) : Result :=
  launchSteps 0x08 { bus := true } (fun s => { s with cont := .xferWord 0 0 }) s

end Sys2Proof.Machine
end

