-- ==== Sys2Proof/Machine/Dispatch.lean ====
section
/-! DEFINITION. What each instruction does: one arm per constructor, each one direct call of its meaning. -/
namespace Sys2Proof.Machine

def exec (i : Instr) (s : State) : Host.Outcome State Fault Refusal :=
  match i with
  | .nop => Sys2Proof.Machine.execNop s
  | .busEnable => Sys2Proof.Machine.execBusEnable s
  | .busDisable => Sys2Proof.Machine.execBusDisable s
  | .csAssert => Sys2Proof.Machine.execCsAssert s
  | .csRelease => Sys2Proof.Machine.execCsRelease s
  | .setSpeed => Sys2Proof.Machine.execSetSpeed s
  | .idleClocks => Sys2Proof.Machine.execIdleClocks s
  | .xferByte => Sys2Proof.Machine.execXferByte s
  | .xferWord => Sys2Proof.Machine.execXferWord s
  | .crc7Clear => Sys2Proof.Machine.execCrc7Clear s
  | .crc7Feed => Sys2Proof.Machine.execCrc7Feed s
  | .crc16Clear => Sys2Proof.Machine.execCrc16Clear s
  | .crc16Feed => Sys2Proof.Machine.execCrc16Feed s
  | .cmdSend => Sys2Proof.Machine.execCmdSend s
  | .readBlock => Sys2Proof.Machine.execReadBlock s
  | .writeBlock => Sys2Proof.Machine.execWriteBlock s
  | .stopTran => Sys2Proof.Machine.execStopTran s
  | .busyWait => Sys2Proof.Machine.execBusyWait s
  | .init => Sys2Proof.Machine.execInit s
  | .reserved13 => Sys2Proof.Machine.execReserved13 s
  | .reserved14 => Sys2Proof.Machine.execReserved14 s
  | .reserved15 => Sys2Proof.Machine.execReserved15 s
  | .reserved16 => Sys2Proof.Machine.execReserved16 s
  | .reserved17 => Sys2Proof.Machine.execReserved17 s
  | .reserved18 => Sys2Proof.Machine.execReserved18 s
  | .reserved19 => Sys2Proof.Machine.execReserved19 s
  | .reserved1A => Sys2Proof.Machine.execReserved1A s
  | .reserved1B => Sys2Proof.Machine.execReserved1B s
  | .reserved1C => Sys2Proof.Machine.execReserved1C s
  | .reserved1D => Sys2Proof.Machine.execReserved1D s
  | .reserved1E => Sys2Proof.Machine.execReserved1E s
  | .reserved1F => Sys2Proof.Machine.execReserved1F s
  -- The CRC field of a frame is the block's to compute (R173, log 18).
  | .sdFrame idx arg _ => Sys2Proof.Machine.execSdFrame idx arg s
  | .cmd0 arg _ => Sys2Proof.Machine.execCmd0 arg s
  | .cmd8 arg _ => Sys2Proof.Machine.execCmd8 arg s
  | .cmd59 arg _ => Sys2Proof.Machine.execCmd59 arg s
  | .cmd55 arg _ => Sys2Proof.Machine.execCmd55 arg s
  | .acmd41 arg _ => Sys2Proof.Machine.execAcmd41 arg s
  | .cmd58 arg _ => Sys2Proof.Machine.execCmd58 arg s
  | .cmd16 arg _ => Sys2Proof.Machine.execCmd16 arg s
  | .cmd17 arg _ => Sys2Proof.Machine.execCmd17 arg s
  | .cmd18 arg _ => Sys2Proof.Machine.execCmd18 arg s
  | .cmd12 arg _ => Sys2Proof.Machine.execCmd12 arg s
  | .cmd24 arg _ => Sys2Proof.Machine.execCmd24 arg s
  | .cmd25 arg _ => Sys2Proof.Machine.execCmd25 arg s
  | .acmd23 arg _ => Sys2Proof.Machine.execAcmd23 arg s
  | .startToken => Sys2Proof.Machine.execStartToken s
  | .startTokenMulti => Sys2Proof.Machine.execStartTokenMulti s
  | .stopToken => Sys2Proof.Machine.execStopToken s
  | .dataResponse ignored status => Sys2Proof.Machine.execDataResponse ignored status s

end Sys2Proof.Machine
end

