-- ==== Sys2Proof/WellFormed.lean ====
section
/-! DEFINITION. The well-formed instructions: the terms that some word of the spec's encoding tables stands for. -/
namespace Sys2Proof

/-- The command indices that have a row of their own in the opcode table (R211 to R223). -/
def namedIndices : List (BitVec 6) := [0, 8, 59, 55, 41, 58, 16, 17, 18, 12, 24, 25, 23]

/-- The status values that R117 lists: accepted, CRC error, write error. -/
def responseStatuses : List (BitVec 3) := [0b010, 0b101, 0b110]

/-- An operation is well formed. A frame is well formed when its CRC field is the CRC-7 of its bytes 0 to 4 (R172,
R173: the block never sends another) and, for the row of any index, its index has no row of its own. A data-response
token is well formed when its status is one R117 lists. -/
def Instr.wellFormed : Instr → Bool
  | .nop | .busEnable | .busDisable | .csAssert | .csRelease | .setSpeed | .idleClocks | .xferByte | .xferWord => true
  | .crc7Clear | .crc7Feed | .crc16Clear | .crc16Feed => true
  | .cmdSend | .readBlock | .writeBlock | .stopTran | .busyWait | .init => true
  | .reserved13 | .reserved14 | .reserved15 | .reserved16 | .reserved17 | .reserved18 | .reserved19 => true
  | .reserved1A | .reserved1B | .reserved1C | .reserved1D | .reserved1E | .reserved1F => true
  | .sdFrame idx arg crc => !namedIndices.contains idx && crc == Machine.frameCrc idx arg
  | .cmd0 arg crc => crc == Machine.frameCrc 0 arg
  | .cmd8 arg crc => crc == Machine.frameCrc 8 arg
  | .cmd59 arg crc => crc == Machine.frameCrc 59 arg
  | .cmd55 arg crc => crc == Machine.frameCrc 55 arg
  | .acmd41 arg crc => crc == Machine.frameCrc 41 arg
  | .cmd58 arg crc => crc == Machine.frameCrc 58 arg
  | .cmd16 arg crc => crc == Machine.frameCrc 16 arg
  | .cmd17 arg crc => crc == Machine.frameCrc 17 arg
  | .cmd18 arg crc => crc == Machine.frameCrc 18 arg
  | .cmd12 arg crc => crc == Machine.frameCrc 12 arg
  | .cmd24 arg crc => crc == Machine.frameCrc 24 arg
  | .cmd25 arg crc => crc == Machine.frameCrc 25 arg
  | .acmd23 arg crc => crc == Machine.frameCrc 23 arg
  | .startToken | .startTokenMulti | .stopToken => true
  | .dataResponse _ status => responseStatuses.contains status

end Sys2Proof
end

