-- ==== Sys2Proof/Decode.lean ====
section
/-! DEFINITION. The decoder, total on any list of bytes and rejecting by name, and after it the encoder, both from the
encoding tables of spec/30_encoding.md and spec/opcode_table.json. -/
namespace Sys2Proof

/-- An OPCODE write: bits 4:0 select the operation, bits 31:5 are ignored (R100, R101, R103). No code is refused: the
codes 0x13 to 0x1F are rows of their own, which raise RESERVED_OP when they run. -/
def decodeOperation (v : Word) : Instr :=
  match (v.extractLsb' 0 5).toNat with
  | 0x00 => .nop
  | 0x01 => .busEnable
  | 0x02 => .busDisable
  | 0x03 => .csAssert
  | 0x04 => .csRelease
  | 0x05 => .setSpeed
  | 0x06 => .idleClocks
  | 0x07 => .xferByte
  | 0x08 => .xferWord
  | 0x09 => .crc7Clear
  | 0x0A => .crc7Feed
  | 0x0B => .crc16Clear
  | 0x0C => .crc16Feed
  | 0x0D => .cmdSend
  | 0x0E => .readBlock
  | 0x0F => .writeBlock
  | 0x10 => .stopTran
  | 0x11 => .busyWait
  | 0x12 => .init
  | 0x13 => .reserved13
  | 0x14 => .reserved14
  | 0x15 => .reserved15
  | 0x16 => .reserved16
  | 0x17 => .reserved17
  | 0x18 => .reserved18
  | 0x19 => .reserved19
  | 0x1A => .reserved1A
  | 0x1B => .reserved1B
  | 0x1C => .reserved1C
  | 0x1D => .reserved1D
  | 0x1E => .reserved1E
  | _ => .reserved1F

/-- A frame's instruction from its fields: the row of the index where it has one, else the row of any index
(R110, R211 to R223). -/
def frameOfFields (idx : BitVec 6) (arg : Word) (crc : BitVec 7) : Instr :=
  match idx.toNat with
  | 0 => .cmd0 arg crc
  | 8 => .cmd8 arg crc
  | 12 => .cmd12 arg crc
  | 16 => .cmd16 arg crc
  | 17 => .cmd17 arg crc
  | 18 => .cmd18 arg crc
  | 23 => .acmd23 arg crc
  | 24 => .cmd24 arg crc
  | 25 => .cmd25 arg crc
  | 41 => .acmd41 arg crc
  | 55 => .cmd55 arg crc
  | 58 => .cmd58 arg crc
  | 59 => .cmd59 arg crc
  | _ => .sdFrame idx arg crc

/-- A command frame of 48 bits, bit 47 first on the wire (R110): start and transmission bits 01, index 45:40, argument
39:8, CRC-7 7:1, end bit 1. -/
def decodeFrame (w : BitVec 48) : Except DecodeError Instr :=
  if w.extractLsb' 46 2 ≠ 0b01#2 then .error .badStartBits
  else if w.extractLsb' 0 1 ≠ 1#1 then .error .badEndBit
  else .ok (frameOfFields (w.extractLsb' 40 6) (w.extractLsb' 8 32) (w.extractLsb' 1 7))

/-- A token of one byte: the values of R115, or the data-response form `xxx0sss1` of R117. -/
def decodeToken (b : Byte) : Except DecodeError Instr :=
  if b = 0xFE then .ok .startToken
  else if b = 0xFC then .ok .startTokenMulti
  else if b = 0xFD then .ok .stopToken
  else if b.extractLsb' 4 1 = 0#1 ∧ b.extractLsb' 0 1 = 1#1 then
    .ok (.dataResponse (b.extractLsb' 5 3) (b.extractLsb' 1 3))
  else .error .notAToken

/-- The decoder: one byte is a token, four are the word written to OPCODE (least significant byte first, R33), six are
a command frame (first byte first on the wire, R110). -/
def decode : List Byte → Except DecodeError Instr
  | [b] => decodeToken b
  | [b0, b1, b2, b3] => .ok (decodeOperation (b3 ++ b2 ++ b1 ++ b0))
  | [b0, b1, b2, b3, b4, b5] => decodeFrame (b0 ++ b1 ++ b2 ++ b3 ++ b4 ++ b5)
  | _ => .error .badLength

/-- The four bytes of a word, least significant first (R33). -/
def wordBytes (v : Word) : List Byte :=
  [v.extractLsb' 0 8, v.extractLsb' 8 8, v.extractLsb' 16 8, v.extractLsb' 24 8]

/-- The six bytes of a 48-bit frame, most significant first (R110). -/
def frameWordBytes (w : BitVec 48) : List Byte :=
  [w.extractLsb' 40 8, w.extractLsb' 32 8, w.extractLsb' 24 8, w.extractLsb' 16 8, w.extractLsb' 8 8, w.extractLsb' 0 8]

/-- The bytes of a frame from its fields (R110). -/
def encodeFrame (idx : BitVec 6) (arg : Word) (crc : BitVec 7) : List Byte :=
  frameWordBytes (0b01#2 ++ idx ++ arg ++ crc ++ 1#1)

/-- The encoder, from the tables of R101, R103, R110, R115 and R117. The ignored bits 31:5 of an OPCODE write are
written as 0. -/
def encode : Instr → List Byte
  | .nop => wordBytes 0x00
  | .busEnable => wordBytes 0x01
  | .busDisable => wordBytes 0x02
  | .csAssert => wordBytes 0x03
  | .csRelease => wordBytes 0x04
  | .setSpeed => wordBytes 0x05
  | .idleClocks => wordBytes 0x06
  | .xferByte => wordBytes 0x07
  | .xferWord => wordBytes 0x08
  | .crc7Clear => wordBytes 0x09
  | .crc7Feed => wordBytes 0x0A
  | .crc16Clear => wordBytes 0x0B
  | .crc16Feed => wordBytes 0x0C
  | .cmdSend => wordBytes 0x0D
  | .readBlock => wordBytes 0x0E
  | .writeBlock => wordBytes 0x0F
  | .stopTran => wordBytes 0x10
  | .busyWait => wordBytes 0x11
  | .init => wordBytes 0x12
  | .reserved13 => wordBytes 0x13
  | .reserved14 => wordBytes 0x14
  | .reserved15 => wordBytes 0x15
  | .reserved16 => wordBytes 0x16
  | .reserved17 => wordBytes 0x17
  | .reserved18 => wordBytes 0x18
  | .reserved19 => wordBytes 0x19
  | .reserved1A => wordBytes 0x1A
  | .reserved1B => wordBytes 0x1B
  | .reserved1C => wordBytes 0x1C
  | .reserved1D => wordBytes 0x1D
  | .reserved1E => wordBytes 0x1E
  | .reserved1F => wordBytes 0x1F
  | .sdFrame idx arg crc => encodeFrame idx arg crc
  | .cmd0 arg crc => encodeFrame 0 arg crc
  | .cmd8 arg crc => encodeFrame 8 arg crc
  | .cmd59 arg crc => encodeFrame 59 arg crc
  | .cmd55 arg crc => encodeFrame 55 arg crc
  | .acmd41 arg crc => encodeFrame 41 arg crc
  | .cmd58 arg crc => encodeFrame 58 arg crc
  | .cmd16 arg crc => encodeFrame 16 arg crc
  | .cmd17 arg crc => encodeFrame 17 arg crc
  | .cmd18 arg crc => encodeFrame 18 arg crc
  | .cmd12 arg crc => encodeFrame 12 arg crc
  | .cmd24 arg crc => encodeFrame 24 arg crc
  | .cmd25 arg crc => encodeFrame 25 arg crc
  | .acmd23 arg crc => encodeFrame 23 arg crc
  | .startToken => [0xFE]
  | .startTokenMulti => [0xFC]
  | .stopToken => [0xFD]
  | .dataResponse ignored status => [ignored ++ 0#1 ++ status ++ 1#1]

/-- How the words of the opcode table are laid out (log 20). More than 32 bits: a frame, whose bit 47 is first on the
wire. At most 8 bits: a token, where the byte is one and does not fit the five bits of an operation code. Otherwise an
OPCODE write, whose missing high bits are 0. -/
def tableBytes (nbits w : Nat) : List Byte :=
  if 32 < nbits then frameWordBytes (BitVec.ofNat 48 w)
  else if nbits ≤ 8 ∧ 32 ≤ w ∧ (decodeToken (BitVec.ofNat 8 w)).toBool then [BitVec.ofNat 8 w]
  else wordBytes (BitVec.ofNat 32 w)

/-- What the decoder reads from a word of the opcode table, numbered as the table numbers it. -/
def decodeTableWord (nbits w : Nat) : Option Instr :=
  (decode (tableBytes nbits w)).toOption

end Sys2Proof
end

