-- ==== Sys2Proof/Machine/HostBus.lean ====
section
/-! DEFINITION. The Host's side: register accesses through the window and their access rule (spec/10_state.md R32,
R33), system-memory accesses with buffer ownership and barriers (spec/20_memory.md R90 to R95), the Host's waits
(spec/30_encoding.md R105, R106), the reset input (spec/70_reset_and_hazards.md R350), and what a step does next. -/
namespace Sys2Proof.Machine

/-- The offset in the register window that a Host address selects, if it lies there (R32). -/
def windowOffset (p : Params) (addr : Word) : Option Nat :=
  let d := (addr - p.blockBase).toNat
  if d < 0x40 then some d else none

/-- The bytes of an access of this width. -/
def Width.bytes : Width → Nat
  | .w8 => 1
  | .w16 => 2
  | .w32 => 4

/-- The access is a 32-bit access at a multiple of 4 (R33). -/
def goodAccess (off : Nat) (width : Width) : Bool :=
  decide (width = .w32) && decide (off % 4 = 0)

/-- The Host's access to the n bytes from a on touches the buffer the Engine owns (R90, R91). -/
def touchesOwned (a n : Nat) (s : State) : Bool :=
  s.status.xfer && (List.range n).any (fun i => s.lat.owns (a + i))

/-- READ_BLOCK's code (R101). -/
def readBlockCode : BitVec 5 := 0x0E

/-- The Host's bytes stored from a on, least significant first (R81); each needs a barrier before a WRITE_BLOCK that
sends it (R94 (a)), and the Host's own later load of it is ordered. -/
def storeBytes (a : Nat) : List Byte → State → State
  | [], s => s
  | b :: rest, s =>
    storeBytes (a + 1) rest
      { s with mem := s.mem.write a b
               hostStores := addAddr a s.hostStores
               engStores := s.engStores.filter (fun x => x != a) }

/-- The Host's load of n bytes from a on as a number, least significant first (R81). A byte the Engine wrote that no
barrier has ordered is a draw (R94 (b), U4, log 12). -/
def loadBytes : Nat → Nat → State → Nat × State
  | 0, _, s => (0, s)
  | n + 1, a, s =>
    if s.engStores.contains a then
      let (v, t) := loadBytes n (a + 1) { s with draws := s.draws + 1 }
      ((Config.unorderedByte s.draws).toNat + 256 * v, t)
    else
      let (v, t) := loadBytes n (a + 1) s
      ((s.mem.read a).toNat + 256 * v, t)

/-- A Host store to system memory (R80, R91). -/
def memStore (a : Nat) (width : Width) (v : Word) (s : State) : Result :=
  if touchesOwned a width.bytes s then .fault .bufferRace
  else if memAdmits s.params a width.bytes then .next (storeBytes a ((wordBytes v).take width.bytes) s)
  else .fault .hostAccessNotAdmitted

/-- A Host load from system memory: a race only with READ_BLOCK (R80, R91). -/
def memLoad (a : Nat) (width : Width) (s : State) : Result :=
  if touchesOwned a width.bytes s && decide (s.lat.op = readBlockCode) then .fault .bufferRace
  else if memAdmits s.params a width.bytes then
    let (v, t) := loadBytes width.bytes a s
    .next { t with rdata := BitVec.ofNat 32 v }
  else .fault .hostAccessNotAdmitted

/-- A Host store (R33, R80). The 32-bit store to OPCODE is not here: it is the fetch of an operation. -/
def hostStore (addr : Word) (width : Width) (v : Word) (s : State) : Result :=
  match windowOffset s.params addr with
  | some off => .next (if goodAccess off width then regWrite off v s else raiseFault .regAccess s)
  | none => memStore addr.toNat width v s

/-- A 32-bit load of a register into `rdata` (R55). -/
def loadReg (off : Nat) (s : State) : State :=
  { afterRead off s with rdata := regValue off s }

/-- A Host load (R33, R80). A faulting read returns 0 (R321). -/
def hostLoad (addr : Word) (width : Width) (s : State) : Result :=
  match windowOffset s.params addr with
  | some off =>
    .next (if goodAccess off width then loadReg off s else { raiseFault .regAccess s with rdata := 0 })
  | none => memLoad addr.toNat width s

/-- A Host data memory barrier (R94): its earlier stores are ordered, and so is what the Engine wrote in every transfer
whose end the Host has seen, whatever was launched since. -/
def hostBarrier (s : State) : State :=
  { s with hostStores := [], engStores := s.engStores.filter (fun a => !s.seenStores.contains a), seenStores := [] }

/-- The reset input (R350): every register and internal field at its reset value, system memory, the parameters and
the Card untouched. The Host and its program are not the block's: they go on (log 27). -/
def resetBlock (s : State) : State :=
  { State.reset with
    mem := s.mem
    params := s.params
    hostq := s.hostq
    rdata := s.rdata
    card := s.card
    draws := s.draws
    hostStores := s.hostStores
    engStores := s.engStores
    seenStores := s.seenStores }

/-- One round of a Host wait: a read of STATUS, and if it does not show the end, the Engine's turn and another round
(R105, R106, log 26). -/
def hostWait (again : HostAction) (ended : Word → Bool) (s : State) : State :=
  let s := loadReg 0x04 s
  if ended s.rdata then s else { s with hostq := .engine :: again :: s.hostq }

/-- `WAITDONE`'s exit: DONE = 1 or FAULT = 1 (R105). -/
def doneOrFault (v : Word) : Bool := v.getLsbD 1 || v.getLsbD 5

/-- `WAITBUF`'s exit: XFER = 0 (R106). -/
def bufferFree (v : Word) : Bool := !v.getLsbD 3

/-- A read of STATUS; with ERR = 1 the Host's program ends (R237, R247). -/
def hostStopOnErr (s : State) : State :=
  let s := loadReg 0x04 s
  if s.rdata.getLsbD 2 then { s with hostq := [] } else s

/-- What the step fetched: the bytes of an instruction and the state it runs in, or a step that is no instruction. -/
inductive Fetched where
  | run (bytes : List Byte) (s : State)
  | step (r : Result)

/-- The next event (R10, R11, log 1): the Host's next action, or, when the Host has none, the Engine's step (R374). The
bytes of an instruction are the word of a 32-bit store to OPCODE (R100), or a wire item the Host issues. -/
def fetch (s : State) : Fetched :=
  match s.hostq with
  | [] => .step (engineStep s)
  | .store addr width v :: rest =>
    if windowOffset s.params addr = some 0 ∧ width = .w32 then .run (wordBytes v) { s with hostq := rest }
    else .step (hostStore addr width v { s with hostq := rest })
  | .load addr width :: rest => .step (hostLoad addr width { s with hostq := rest })
  | .dmb :: rest => .step (.next (hostBarrier { s with hostq := rest }))
  | .reset :: rest => .step (.next (resetBlock { s with hostq := rest }))
  | .engine :: rest => .step (engineStep { s with hostq := rest })
  | .waitDone :: rest => .step (.next (hostWait .waitDone doneOrFault { s with hostq := rest }))
  | .waitBuf :: rest => .step (.next (hostWait .waitBuf bufferFree { s with hostq := rest }))
  | .stopOnErr :: rest => .step (.next (hostStopOnErr { s with hostq := rest }))
  | .frame w :: rest => .run (frameWordBytes w) { s with hostq := rest }
  | .token b :: rest => .run [b] { s with hostq := rest }

/-- The Host action that issues a word of the opcode table, laid out as the decoder reads it (log 20). -/
def issue (p : Params) (nbits w : Nat) : HostAction :=
  match tableBytes nbits w with
  | [b] => .token b
  | [b0, b1, b2, b3] => .store p.blockBase .w32 (b3 ++ b2 ++ b1 ++ b0)
  | [b0, b1, b2, b3, b4, b5] => .frame (b0 ++ b1 ++ b2 ++ b3 ++ b4 ++ b5)
  | _ => .engine

end Sys2Proof.Machine
end

