-- ==== Sys2Proof/Machine/Step.lean ====
section
/-! DEFINITION. One step: the next event, an instruction of it decoded and run; and where the next instruction is
fetched from. -/
namespace Sys2Proof.Machine

/-- One step. Parameters outside their domain are refused (R324 (a)). Otherwise the next event happens (`fetch`): an
instruction is decoded and run, every other event is its own step. -/
def step (s : State) : Host.Outcome State Fault Refusal :=
  if s.params.inDomain then
    match fetch s with
    | .run bytes t =>
      match decode bytes with
      | .ok i => exec i t
      | .error why => .refused (.undecodable why)
    | .step r => r
  else .refused .parametersOutsideDomain

/-- The state with a word of the opcode table as the Host's next action, so that the very next step runs it (log 2). -/
def State.withFetchWord (s : State) (nbits w : Nat) : State :=
  { s with hostq := issue s.params nbits w :: s.hostq }

end Sys2Proof.Machine
end

