-- ==== Sys2Proof/Safety.lean ====
section
/-! DEFINITION. What claims are stated in: the states that take an OPCODE write, the invariant of the machine, the launch
table, the bound on an operation's steps, and the end of a run. -/
namespace Sys2Proof.Machine

/-- An OPCODE write passes steps 1 and 2 of R316: no fault is recorded and no operation runs. -/
def State.accepting (s : State) : Prop :=
  s.status.fault = false ∧ s.cont = .idle

/-- The Host's program has made its last access and the Engine is idle: the end of a run (R374). -/
def State.runEnded (s : State) : Prop :=
  s.hostq = [] ∧ s.busy = false

/-! ### Where the sequencer stands -/

/-- The caller of the transaction that runs, if one does. -/
def Cont.caller? : Cont → Option Caller
  | .frame c _ => some c
  | .stuff c => some c
  | .r1Poll c _ => some c
  | .trailing c _ _ _ => some c
  | .busy (.txn c _) _ => some c
  | _ => none

/-- The card state in which INIT sends a command (R275 to R281, R290). -/
def InitCmd.stage : InitCmd → CardState
  | .goIdle => .uninitialized
  | .ifCond => .resetAcknowledged
  | _ => .voltageNegotiated

/-- INIT sends the command on the operating clock: phases g and h (R279). -/
def InitCmd.fastClock : InitCmd → Bool
  | .readOcr => true
  | .blockLen => true
  | _ => false

/-- The card state in which a caller sends its command, where it is INIT. -/
def Caller.stage? : Caller → Option CardState
  | .cmdSend => none
  | .init cmd _ => some cmd.stage

/-- The clock on which a caller sends its command, where it is INIT. -/
def Caller.clock? : Caller → Option Bool
  | .cmdSend => none
  | .init cmd _ => some cmd.fastClock

/-- The caller is INIT. -/
def Caller.isInit : Caller → Bool
  | .cmdSend => false
  | .init _ _ => true

/-- The card state that INIT has reached at this point of its sequence (R290): none before its first step, and none
where INIT does not run. -/
def Cont.stage? : Cont → Option CardState
  | .initClocks 0 => none
  | .initClocks _ => some .uninitialized
  | .initTrail cmd _ _ _ _ => some cmd.stage
  | .speedUp _ => some .voltageNegotiated
  | c => c.caller?.bind Caller.stage?

/-- INIT runs. -/
def Cont.runsInit : Cont → Bool
  | .initClocks _ => true
  | .initTrail _ _ _ _ _ => true
  | .speedUp _ => true
  | c => c.caller?.elim false Caller.isInit

/-- The 512-byte buffer is the Engine's: from the launch of READ_BLOCK or WRITE_BLOCK to the last data byte (R90). -/
def Cont.ownsBuffer : Cont → Bool
  | .tokenWait _ => true
  | .readData _ => true
  | .writeToken => true
  | .writeData _ => true
  | _ => false

/-- The points at which WIDTH32 may be 1: XFER_WORD and the data bytes (R84, R144). -/
def Cont.movesWords : Cont → Bool
  | .xferWord _ _ => true
  | .readData _ => true
  | .writeData _ => true
  | _ => false

/-- The clock that INIT has selected at this point of its sequence: slow up to phase f, operating after it (R272,
R279). -/
def Cont.clock? : Cont → Option Bool
  | .initClocks 0 => none
  | .initClocks _ => some false
  | .initTrail cmd _ _ _ _ => some cmd.fastClock
  | .speedUp _ => some false
  | c => c.caller?.bind Caller.clock?

/-- The transaction whose frame has been started on the wire. -/
def Cont.started? : Cont → Option Caller
  | .frame _ 0 => none
  | .initTrail cmd _ _ _ pend => some (.init cmd pend)
  | c => c.caller?

/-- The points at which the card must stay selected: within a transaction whose frame has been started, and within every
operation whose launch requires chip-select (R209, R273, R313). -/
def Cont.needsCs : Cont → Bool
  | .tokenWait _ => true
  | .readData _ => true
  | .readCrcHi => true
  | .readCrcLo _ => true
  | .writeToken => true
  | .writeData _ => true
  | .writeCrcHi => true
  | .writeCrcLo => true
  | .writeResp _ => true
  | .stopToken => true
  | .stopGap => true
  | .busy _ _ => true
  | c => c.started?.isSome

/-- The counter of the running poll is below its bound (R203, R231, R243, R250, R274). -/
def Cont.inBounds (p : Params) : Cont → Bool
  | .r1Poll _ k => decide (k < p.ncrLimit)
  | .tokenWait k => decide (k < p.tokenPollLimit)
  | .writeResp k => decide (k < p.drespLimit)
  | .busy _ k => decide (k < busyBound p)
  | .initClocks k => decide (k < p.idleClockBytes)
  | _ => true

/-- An Engine step from s to t writes DATA: XFER_BYTE's, XFER_WORD's last, the end of READ_BLOCK's wait without a start
token, and READ_BLOCK's last (R152, R153, R232, R236). -/
def writesData (s t : State) : Prop :=
  s.cont = .xferByte ∨ (∃ got, s.cont = .xferWord 3 got) ∨ (∃ k, s.cont = .tokenWait k ∧ t.cont = .idle) ∨
  (∃ hi, s.cont = .readCrcLo hi)

/-- The n bytes from a on lie outside the latched buffer (R90, R91). -/
def State.outsideBuffer (s : State) (a n : Nat) : Prop :=
  ∀ j, j < n → a + j < s.lat.buf.toNat ∨ s.lat.buf.toNat + 511 < a + j

/-- Chip-select as a wire trace leaves it: the level of its last change, released where there is none (R53, R142). -/
def csLevel (w : List WireEvent) : Bool :=
  w.foldl (fun b e => match e with
    | .csChange c => c
    | .exchange _ _ _ _ _ => b) false

/-! ### The invariant -/

/-- What holds at reset and what every step keeps. -/
structure State.Inv (s : State) : Prop where
  /-- BUSCTL.CS is 0 whenever BUSCTL.BUS_EN = 0 (R142). -/
  csNeedsBus : s.bus.busEn = false → s.bus.cs = false
  /-- The card session does not outlive the bus (R147, R282, R321). -/
  cardNeedsBus : s.bus.busEn = false → s.status.cardState = .uninitialized
  /-- A fault has halted the block and disabled the bus (R321). -/
  faultHalts : s.status.fault = true → s.cont = .idle ∧ s.bus.busEn = false
  /-- FAULTCODE is 0 exactly while STATUS.FAULT = 0 (R47). -/
  faultCode : s.status.fault = true ↔ s.faultCode ≠ .none
  /-- ERRCODE is 0 exactly when ERR = 0 (R35). -/
  errCode : s.status.err = true ↔ s.status.errCode ≠ .none
  /-- DONE and ERR are 0 while BUSY = 1 (R56, R314). -/
  busyClears : s.cont ≠ .idle → s.status.done = false ∧ s.status.err = false
  /-- An operation that exchanges bytes runs on an enabled bus; INIT enables it in its first step (R272, R375). -/
  busyHasBus : s.cont ≠ .idle → s.bus.busEn = true ∨ s.cont = .initClocks 0
  /-- XFER = 1 exactly while the Engine owns the buffer (R90, R253). -/
  xferOwns : s.status.xfer = s.cont.ownsBuffer
  /-- POLL = 1 only within the busy poll (R253). -/
  pollBusy : s.status.poll = true → ∃ u k, s.cont = .busy u (k + 1)
  /-- WIDTH32 = 1 only while words move (R84, R144). -/
  widthWord : s.bus.width32 = true → s.cont.movesWords = true
  /-- PHASE is 0 when INIT is not running (R35, R271). -/
  phaseInit : s.init.phase ≠ .idle → s.cont.runsInit = true
  /-- The latched code is INIT's exactly while INIT runs, of the operations that run. -/
  opInit : s.cont ≠ .idle → (s.lat.op = initCode ↔ s.cont.runsInit = true)
  /-- Within INIT the card state is the one its sequence has reached (R290). -/
  stage : ∀ c, s.cont.stage? = some c → s.status.cardState = c
  /-- Within INIT the clock is the one its sequence has selected (R272, R279). -/
  clock : ∀ b, s.cont.clock? = some b → s.bus.speedOp = b ∧ (b = true → s.bus.level = s.lat.level)
  /-- CRC7 holds the CRC of the frame on the wire (R176). -/
  frameCrc : ∀ c, s.cont.started? = some c → s.crc7 = Machine.frameCrc (c.idx s.lat) (c.arg s.lat)
  /-- INIT holds the results of the transaction that just ended (R273, log 9). -/
  held : ∀ cmd st r1 tail p, s.cont = .initTrail cmd st r1 tail p →
    p.r0 = some r1 ∧ ∀ v, st = .ok → tail = some v → p.r1 = some v
  /-- The Engine owns a buffer only where the launch admitted it (R88). -/
  bufferFits : s.cont.ownsBuffer = true →
    s.lat.buf.toNat + 511 ≤ 0xFFFFFFFF ∧ memAdmits s.params s.lat.buf.toNat sectorBytes = true
  /-- Every change of chip-select is on the wire (R142). -/
  csWire : s.bus.cs = csLevel s.wire
  /-- System memory is in canonical form (log 6). -/
  memWf : s.mem.wf = true
  /-- The parameters are in their domain (R13, R324 (a)). -/
  domain : s.params.inDomain = true
  /-- Chip-select is asserted wherever the operation needs it (R209, R273, R313). -/
  csHeld : s.cont.needsCs = true → s.bus.cs = true
  /-- Every poll is within its bound. -/
  bounds : s.cont.inBounds s.params = true

/-! ### The launch table (R313) -/

/-- The code of an operation of the table of R101. -/
def opCode : Instr → Option (BitVec 5)
  | .nop => some 0x00
  | .busEnable => some 0x01
  | .busDisable => some 0x02
  | .csAssert => some 0x03
  | .csRelease => some 0x04
  | .setSpeed => some 0x05
  | .idleClocks => some 0x06
  | .xferByte => some 0x07
  | .xferWord => some 0x08
  | .crc7Clear => some 0x09
  | .crc7Feed => some 0x0A
  | .crc16Clear => some 0x0B
  | .crc16Feed => some 0x0C
  | .cmdSend => some 0x0D
  | .readBlock => some 0x0E
  | .writeBlock => some 0x0F
  | .stopTran => some 0x10
  | .busyWait => some 0x11
  | .init => some 0x12
  | _ => none

/-- The reserved codes 0x13 to 0x1F (R103). -/
def isReserved : Instr → Bool
  | .reserved13 | .reserved14 | .reserved15 | .reserved16 | .reserved17 | .reserved18 | .reserved19 => true
  | .reserved1A | .reserved1B | .reserved1C | .reserved1D | .reserved1E | .reserved1F => true
  | _ => false

/-- The multi-step operations of R317: the Engine runs them after the write. -/
def isMultiStep : Instr → Bool
  | .idleClocks | .xferByte | .xferWord | .cmdSend | .readBlock | .writeBlock | .stopTran | .busyWait | .init => true
  | _ => false

/-- The row of an operation in the table of R313. -/
def launchRow : Instr → Needs
  | .csAssert | .idleClocks | .xferByte | .xferWord | .cmdSend => { bus := true }
  | .busyWait => { bus := true, cs := true }
  | .stopTran => { bus := true, ready := true, cs := true }
  | .readBlock | .writeBlock => { bus := true, ready := true, cs := true, buffer := true }
  | _ => {}

/-- The buffer check of R88 on BUFADDR: no wrap-around, and the 512 bytes are admitted. -/
def State.bufferAdmitted (s : State) : Prop :=
  s.bufAddr.toNat + 511 ≤ 0xFFFFFFFF ∧ memAdmits s.params s.bufAddr.toNat 512 = true

/-- Every requirement of the operation's row holds (R313, R88). -/
def launchOk (i : Instr) (s : State) : Prop :=
  ((launchRow i).bus = true → s.bus.busEn = true) ∧
  ((launchRow i).ready = true → s.status.cardState = .ready) ∧
  ((launchRow i).cs = true → s.bus.cs = true) ∧
  ((launchRow i).buffer = true → s.bufferAdmitted)

/-- The operand latch after a launch with code op (R50). -/
def State.latchFor (op : BitVec 5) (s : State) : Latch where
  op := op
  idx := s.cmdIdx.idx
  rtype := s.cmdIdx.rtype
  arg := s.cmdArg
  data := s.data
  buf := s.bufAddr
  level := s.config.level

/-- The state after the launch actions of R314, with the sequence that the Engine runs. -/
def State.launched (op : BitVec 5) (c : Cont) (s : State) : State :=
  { s with
    lat := s.latchFor op
    status := { s.status with done := false, err := false, errCode := .none }
    cont := c }

/-- STATUS after `finish_ok` (R318). -/
def Status.completed (t : Status) : Status :=
  { t with done := true, err := false, errCode := .none, xfer := false, poll := false }

/-- STATUS after `finish_err(code)` of an operation other than INIT (R319). -/
def Status.failed (code : ErrCode) (t : Status) : Status where
  done := true
  err := true
  xfer := false
  poll := false
  fault := t.fault
  cardState := if t.cardState = .ready then .uninitialized else t.cardState
  errCode := code

/-- STATUS after a fault (R321). -/
def Status.halted (t : Status) : Status :=
  { t with fault := true, xfer := false, poll := false, cardState := .uninitialized }

/-- BUSCTL with the bus enabled or disabled and everything but LEVEL at 0 (R146, R147, R272, R282, R321). -/
def BusCtl.only (enable : Bool) (b : BusCtl) : BusCtl where
  busEn := enable
  cs := false
  speedOp := false
  width32 := false
  level := b.level

/-- The event of releasing chip-select, where it is asserted (R142). -/
def State.releaseEvents (s : State) : List WireEvent :=
  if s.bus.cs then [.csChange false] else []

/-- The event of asserting chip-select, where it is released (R142). -/
def State.assertEvents (s : State) : List WireEvent :=
  if s.bus.cs then [] else [.csChange true]

/-! ### Runs of the Engine, and the wire -/

/-- k Engine steps in a row, ending at the first that is no next state. -/
def engineRun : Nat → State → Result
  | 0, s => .next s
  | k + 1, s =>
    match engineStep s with
    | .next t => engineRun k t
    | .fault r => .fault r
    | .refused r => .refused r

/-- The events of exchanging the bytes `txs` for the bytes `rxs` in order (R140). -/
def exchanges (cs : Bool) (b : BusCtl) (txs rxs : List Byte) : List WireEvent :=
  List.zipWith (fun tx rx => .exchange cs b.speedOp b.level tx rx) txs rxs

/-- The event is a byte exchange. -/
def isExchange : WireEvent → Bool
  | .exchange _ _ _ _ _ => true
  | .csChange _ => false

/-- n fill bytes (R111). -/
def fills (n : Nat) : List Byte := List.replicate n 0xFF

/-- The bytes that follow a good R1, by response type (R112, R206, R207): none; busy bytes ended by 0xFF within the
bound; four; one. -/
def goodTail (p : Params) : RespType → List Byte → Prop
  | .r1, l => l = []
  | .r1b, l => ∃ w, l = w ++ [0xFF] ∧ (∀ b ∈ w, b ≠ 0xFF) ∧ w.length < p.busyFastSamples + p.busyPollLimit
  | .r3r7, l => l.length = 4
  | .r2, l => l.length = 1

/-- RESP1 after a good response: the bytes after R1, or its old value (R112, R206). -/
def tailWord : RespType → List Byte → Word → Word
  | .r3r7, [a, b, c, d], _ => a ++ b ++ c ++ d
  | .r2, [a], _ => a.setWidth 32
  | _, _, old => old

/-- The bytes of a command frame and its stuff byte (R110, R202). -/
def sentFrame (idx : BitVec 6) (arg : Word) : List Byte :=
  frameBytes idx arg ++ (if idx = 12 then [0xFF] else [])

/-- How INIT's failure leaves the block (R282, R319). -/
structure InitFailed (code : ErrCode) (s t : State) : Prop where
  ended : t.cont = .idle
  bus : t.bus = s.bus.only false
  status : t.status.done = true ∧ t.status.err = true ∧ t.status.errCode = code ∧ t.status.cardState = .uninitialized
  phase : t.init.phase = .idle

/-- The index, response type and argument of a command-frame row (R110, R211 to R223); the row of any index has the
response type that CMDIDX holds (log 17). -/
def frameFields (s : State) : Instr → Option (BitVec 6 × RespType × Word)
  | .sdFrame idx arg _ => some (idx, s.cmdIdx.rtype, arg)
  | .cmd0 arg _ => some (0, .r1, arg)
  | .cmd8 arg _ => some (8, .r3r7, arg)
  | .cmd59 arg _ => some (59, .r1, arg)
  | .cmd55 arg _ => some (55, .r1, arg)
  | .acmd41 arg _ => some (41, .r1, arg)
  | .cmd58 arg _ => some (58, .r3r7, arg)
  | .cmd16 arg _ => some (16, .r1, arg)
  | .cmd17 arg _ => some (17, .r1, arg)
  | .cmd18 arg _ => some (18, .r1, arg)
  | .cmd12 arg _ => some (12, .r1b, arg)
  | .cmd24 arg _ => some (24, .r1, arg)
  | .cmd25 arg _ => some (25, .r1, arg)
  | .acmd23 arg _ => some (23, .r1, arg)
  | _ => none

/-! ### The bound on an operation's steps (R372) -/

/-- The most steps a response takes after its R1 (R112, R250). -/
def tailCost (p : Params) : RespType → Nat
  | .r1 => 0
  | .r1b => busyBound p
  | .r3r7 => 4
  | .r2 => 1

/-- T1 of R372: an INIT transaction with an R1 response at worst. -/
def costT1 (p : Params) : Nat := 6 + p.ncrLimit + 1

/-- T7 of R372. -/
def costT7 (p : Params) : Nat := costT1 p + 4

/-- Phase h after `a` attempts. -/
def costH (p : Params) (a : Nat) : Nat := (p.cmd16Limit - a) * costT1 p

/-- Phase g after `a` attempts, and what follows. -/
def costG (p : Params) (a : Nat) : Nat := (p.cmd58Limit - a) * costT7 p + costH p 0

/-- Phase f and what follows. -/
def costF (p : Params) : Nat := 1 + costG p 0

/-- Phase e after `a` rounds, and what follows. -/
def costE (p : Params) (a : Nat) : Nat := (p.acmd41Limit - a) * (2 * costT1 p) + costF p

/-- Phase d and what follows. -/
def costD (p : Params) : Nat := costT1 p + costE p 0

/-- Phase c after `a` attempts, and what follows. -/
def costC (p : Params) (a : Nat) : Nat := (p.cmd8Limit - a) * costT7 p + costD p

/-- Phase b after `a` attempts, and what follows. -/
def costB (p : Params) (a : Nat) : Nat := (p.cmd0Limit - a) * costT1 p + costC p 0

/-- The most steps of INIT after the transaction of cmd, in attempt `a`. -/
def costAfter (p : Params) (a : Nat) : InitCmd → Nat
  | .goIdle => costB p a
  | .ifCond => costC p a
  | .crcOn => costE p 0
  | .appCmd => costT1 p + costE p a
  | .opCond => costE p a
  | .readOcr => costG p a
  | .blockLen => costH p a

/-- The most steps after a transaction returns to its caller. -/
def costReturn (p : Params) (attempt : Nat) : Caller → Nat
  | .cmdSend => 0
  | .init cmd _ => 1 + costAfter p attempt cmd

/-- The same before the transaction's first byte, which counts its attempt. -/
def costReturnFresh (p : Params) (attempt : Nat) : Caller → Nat
  | .cmdSend => 0
  | .init cmd _ => 1 + costAfter p (if cmd.countsAttempt then attempt + 1 else attempt) cmd

/-- The most Engine steps the running operation still takes, whatever the Card answers (R372). -/
def stepsLeft (s : State) : Nat :=
  let p := s.params
  match s.cont with
  | .idle => 0
  | .idleClocks left => left - 1 + 1
  | .xferByte => 1
  | .xferWord k _ => 4 - k.val
  | .frame c k =>
    (6 - k.val) + (if c.idx s.lat = 12 then 1 else 0) + p.ncrLimit + tailCost p (c.rtype s.lat)
      + (if k.val = 0 then costReturnFresh p s.init.attempt c else costReturn p s.init.attempt c)
  | .stuff c => 1 + p.ncrLimit + tailCost p (c.rtype s.lat) + costReturn p s.init.attempt c
  | .r1Poll c k => (p.ncrLimit - (k + 1)) + 1 + tailCost p (c.rtype s.lat) + costReturn p s.init.attempt c
  | .trailing c _ k _ => (if c.rtype s.lat = .r3r7 then 4 - k.val else 1) + costReturn p s.init.attempt c
  | .initTrail cmd _ _ _ _ => 1 + costAfter p s.init.attempt cmd
  | .tokenWait k => (p.tokenPollLimit - (k + 1)) + 1 + 514
  | .readData i => (512 - i.val) + 2
  | .readCrcHi => 2
  | .readCrcLo _ => 1
  | .writeToken => 515 + p.drespLimit + busyBound p
  | .writeData i => (512 - i.val) + 2 + p.drespLimit + busyBound p
  | .writeCrcHi => 2 + p.drespLimit + busyBound p
  | .writeCrcLo => 1 + p.drespLimit + busyBound p
  | .writeResp k => (p.drespLimit - (k + 1)) + 1 + busyBound p
  | .stopToken => 2 + busyBound p
  | .stopGap => 1 + busyBound p
  | .busy (.txn c _) k => (busyBound p - (k + 1)) + 1 + costReturn p s.init.attempt c
  | .busy _ k => (busyBound p - (k + 1)) + 1
  | .initClocks k => (p.idleClockBytes - (k + 1)) + 1 + costB p 0
  | .speedUp _ => costF p

/-- The table of R372, for the operations of a launch in state s (the response type is CMDIDX's). -/
def launchBound (i : Instr) (s : State) : Nat :=
  let p := s.params
  let b := p.busyFastSamples + p.busyPollLimit
  let t1 := 6 + p.ncrLimit + 1
  let t7 := t1 + 4
  match i with
  | .cmdSend => if s.cmdIdx.rtype = .r1b then 6 + 1 + p.ncrLimit + b else 6 + 1 + p.ncrLimit + 4
  | .readBlock => p.tokenPollLimit + 514
  | .writeBlock => 515 + p.drespLimit + b
  | .stopTran => 2 + b
  | .busyWait => b
  | .init =>
    p.idleClockBytes + p.cmd0Limit * t1 + p.cmd8Limit * t7 + t1 + p.acmd41Limit * 2 * t1 + p.cmd58Limit * t7
      + p.cmd16Limit * t1 + 1
  | .idleClocks => 255
  | .xferByte => 1
  | .xferWord => 4
  | _ => 0

end Sys2Proof.Machine
end

