-- ==== Sys2Proof/Certificates/Slice0/Obligations.lean ====
section
/-! DEFINITION. The statements for the provers. Each is about every state and operand that meets its hypotheses, or
about one configuration that the spec names. -/
open Sys2Proof Sys2Proof.Machine

/-! ### Reset, decoding, the step -/

/-- Every piece of state after reset (R59): every register of the window reads 0, and every internal field holds its
reset value. -/
def Obligations.ResetValues : Prop :=
  (∀ off, regValue off State.reset = 0) ∧
  State.reset.lat = { op := 0, idx := 0, rtype := .r1, arg := 0, data := 0, buf := 0, level := 0 } ∧
  State.reset.status = { done := false, err := false, xfer := false, poll := false, fault := false,
                         cardState := .uninitialized, errCode := .none } ∧
  State.reset.busy = false ∧
  State.reset.config = { ie := false, level := 0 } ∧
  State.reset.cmdIdx = { idx := 0, rtype := .r1 } ∧
  State.reset.cmdArg = 0 ∧ State.reset.data = 0 ∧ State.reset.bufAddr = 0 ∧
  State.reset.resp0 = 0 ∧ State.reset.resp1 = 0 ∧ State.reset.dresp = 0 ∧
  State.reset.crc7 = 0 ∧ State.reset.crc16 = 0 ∧
  State.reset.bus = { busEn := false, cs := false, speedOp := false, width32 := false, level := 0 } ∧
  State.reset.faultCode = .none ∧ State.reset.cont = .idle ∧
  State.reset.init = { phase := .idle, attempt := 0, absent := 0 } ∧
  State.reset.wire = [] ∧ State.reset.irq = false

/-- The reset input at any time (R350): (a) every register and internal field at its reset value, (b) the running
operation abandoned with no DONE and no irq, (c) chip-select released and the bus disabled, (d) the fault cleared, (e)
system memory untouched, (f) the Card not reset (its answers go on); power-on reset and a later reset give the same
state of the block. -/
def Obligations.ResetAction : Prop :=
  ∀ (s : State) (rest : List HostAction), s.params.inDomain = true → s.hostq = .reset :: rest →
    ∃ t, step s = .next t ∧
      t.lat = State.reset.lat ∧ t.status = State.reset.status ∧ t.config = State.reset.config ∧
      t.cmdIdx = State.reset.cmdIdx ∧ t.cmdArg = 0 ∧ t.data = 0 ∧ t.bufAddr = 0 ∧ t.resp0 = 0 ∧ t.resp1 = 0 ∧
      t.dresp = 0 ∧ t.crc7 = 0 ∧ t.crc16 = 0 ∧ t.faultCode = .none ∧ t.init = State.reset.init ∧ t.wire = [] ∧
      t.cont = .idle ∧ t.busy = false ∧ t.status.done = false ∧ t.irq = false ∧
      t.bus.cs = false ∧ t.bus.busEn = false ∧ t.bus.word = 0 ∧
      t.status.fault = false ∧
      t.mem = s.mem ∧
      t.card = s.card ∧ t.draws = s.draws ∧ t.params = s.params ∧ t.hostq = rest

/-- A step runs the decoded instruction: where the Host's next action is the word of an OPCODE write, a command frame or
a token, and its bytes decode to i, the step is exec of i in the state with that action taken off the queue. The queue is
the model's choice (log 1, 2). -/
def Obligations.StepRunsDecoded : Prop :=
  ∀ (s : State) (i : Instr) (rest : List HostAction), s.params.inDomain = true →
    (∀ addr v, s.hostq = .store addr .w32 v :: rest → windowOffset s.params addr = some 0 →
      decode (wordBytes v) = .ok i → step s = exec i { s with hostq := rest }) ∧
    (∀ w, s.hostq = .frame w :: rest → decode (frameWordBytes w) = .ok i → step s = exec i { s with hostq := rest }) ∧
    (∀ b, s.hostq = .token b :: rest → decode [b] = .ok i → step s = exec i { s with hostq := rest })

/-- A word of the opcode table placed for the next step is run by it, in the state it was placed in. Where the word is
placed is the model's choice (log 2, 20). -/
def Obligations.FetchWordRuns : Prop :=
  ∀ (s : State) (nbits w : Nat) (i : Instr), s.params.inDomain = true → decodeTableWord nbits w = some i →
    step (s.withFetchWord nbits w) = exec i s

/-- Words written out from the encoding tables of R101, R103, R115, R117 and the frames of R211 to R223 decode to the
instructions they stand for. -/
def Obligations.SpecWordsDecode : Prop :=
  decode [0x00, 0, 0, 0] = .ok .nop ∧ decode [0x05, 0, 0, 0] = .ok .setSpeed ∧
  decode [0x08, 0, 0, 0] = .ok .xferWord ∧ decode [0x0A, 0, 0, 0] = .ok .crc7Feed ∧
  decode [0x0C, 0, 0, 0] = .ok .crc16Feed ∧ decode [0x0D, 0, 0, 0] = .ok .cmdSend ∧
  decode [0x0E, 0, 0, 0] = .ok .readBlock ∧ decode [0x10, 0, 0, 0] = .ok .stopTran ∧
  decode [0x12, 0, 0, 0] = .ok .init ∧ decode [0x13, 0, 0, 0] = .ok .reserved13 ∧
  decode [0x1F, 0, 0, 0] = .ok .reserved1F ∧
  decode [0x40, 0x00, 0x00, 0x00, 0x00, 0x95] = .ok (.cmd0 0 0x4A) ∧
  decode [0x48, 0x00, 0x00, 0x01, 0xAA, 0x87] = .ok (.cmd8 0x1AA 0x43) ∧
  decode [0x7B, 0x00, 0x00, 0x00, 0x01, 0x83] = .ok (.cmd59 1 0x41) ∧
  decode [0x69, 0x40, 0x00, 0x00, 0x00, 0x77] = .ok (.acmd41 0x40000000 0x3B) ∧
  decode [0x4C, 0x00, 0x00, 0x00, 0x00, 0x61] = .ok (.cmd12 0 0x30) ∧
  decode [0x57, 0x00, 0x00, 0x00, 0x08, 0xBF] = .ok (.acmd23 8 0x5F) ∧
  decode [0xFE] = .ok .startToken ∧ decode [0xFC] = .ok .startTokenMulti ∧ decode [0xFD] = .ok .stopToken ∧
  decode [0xE5] = .ok (.dataResponse 0b111 0b010) ∧ decode [0x0B] = .ok (.dataResponse 0b000 0b101)

/-- Decoding the encoding of a well-formed instruction gives the instruction back, with every operand. -/
def Obligations.DecodeEncode : Prop :=
  ∀ i : Instr, i.wellFormed = true → decode (encode i) = .ok i

/-- The other direction: a token and a frame are the encoding of what they decode to, and every four bytes decode to an
operation or a reserved code whose encoding has the five bits of the code and zeros (R100, R103). -/
def Obligations.EncodeDecode : Prop :=
  (∀ b i, decode [b] = .ok i → encode i = [b]) ∧
  (∀ b0 b1 b2 b3 b4 b5 i, decode [b0, b1, b2, b3, b4, b5] = .ok i → encode i = [b0, b1, b2, b3, b4, b5]) ∧
  (∀ b0 b1 b2 b3, ∃ i, decode [b0, b1, b2, b3] = .ok i ∧ encode i = [b0 &&& 0x1F, 0, 0, 0])

/-- What the decoder rejects, each by its name: a byte that is no token, a frame whose first two bits are not 01, a
frame whose last bit is not 1, any other length; and nothing else. -/
def Obligations.DecoderRejects : Prop :=
  (∀ b, decode [b] = .error .notAToken ↔
    b ≠ 0xFE ∧ b ≠ 0xFC ∧ b ≠ 0xFD ∧ ¬(b.getLsbD 4 = false ∧ b.getLsbD 0 = true)) ∧
  (∀ b e, decode [b] = .error e → e = .notAToken) ∧
  (∀ b0 b1 b2 b3 b4 b5 : Byte,
    ((b0 >>> 6) ≠ 1 → decode [b0, b1, b2, b3, b4, b5] = .error .badStartBits) ∧
    ((b0 >>> 6) = 1 → b5.getLsbD 0 = false → decode [b0, b1, b2, b3, b4, b5] = .error .badEndBit) ∧
    ((b0 >>> 6) = 1 → b5.getLsbD 0 = true → ∃ i, decode [b0, b1, b2, b3, b4, b5] = .ok i)) ∧
  (∀ l : List Byte, l.length ≠ 1 → l.length ≠ 4 → l.length ≠ 6 → decode l = .error .badLength)

/-- The encoding of a well-formed command frame is the frame the block sends for its index and argument: byte 0 is
`0x40 | idx`, bytes 1 to 4 the argument most significant first, byte 5 the CRC-7 of bytes 0 to 4 and the end bit 1
(R110, R172). -/
def Obligations.FrameEncoding : Prop :=
  ∀ (s : State) (i : Instr) (idx : BitVec 6) (t : RespType) (arg : Word),
    frameFields s i = some (idx, t, arg) → i.wellFormed = true →
    encode i = frameBytes idx arg ∧
    ∃ c : BitVec 7,
      c = crc7Bytes 0 [0x40 ||| idx.setWidth 8, arg.extractLsb' 24 8, arg.extractLsb' 16 8, arg.extractLsb' 8 8,
                       arg.extractLsb' 0 8] ∧
      frameBytes idx arg = [0x40 ||| idx.setWidth 8, arg.extractLsb' 24 8, arg.extractLsb' 16 8, arg.extractLsb' 8 8,
                            arg.extractLsb' 0 8, (c.setWidth 8 <<< 1) ||| 1]

/-! ### The CRC units -/

/-- The laws of the CRC-7 encoder (R177): (a) linearity over lists of equal length, (b) zeros leave zero, (c) four
single steps, (d) the check value, (e) feeding the seven bits of c, most significant first, leaves 0. -/
def Obligations.Crc7Laws : Prop :=
  (∀ x y : List Byte, x.length = y.length →
    crc7Bytes 0 (List.zipWith (fun a b => a ^^^ b) x y) = crc7Bytes 0 x ^^^ crc7Bytes 0 y) ∧
  (∀ n, crc7Bytes 0 (List.replicate n 0x00) = 0) ∧
  (crc7Step 0 0x01 = 0x09 ∧ crc7Step 0 0x80 = 0x41 ∧ crc7Step 0 0xFF = 0x79 ∧ crc7Step 0 0x40 = 0x64) ∧
  crc7Bytes 0 [0x31, 0x32, 0x33, 0x34, 0x35, 0x36, 0x37, 0x38, 0x39] = 0x75 ∧
  (∀ (m : List Byte) (c : BitVec 7), c = crc7Bytes 0 m →
    [6, 5, 4, 3, 2, 1, 0].foldl (fun r i => crc7Bit r (c.getLsbD i)) c = 0)

/-- The laws and check values of the CRC-16 accumulator (R193): (a) residue, (b) linearity, (c) to (f) four blocks of
512 bytes, (g) three single steps, (h) the check value. -/
def Obligations.Crc16Laws : Prop :=
  (∀ (d : List Byte) (c : BitVec 16), c = crc16Bytes 0 d →
    crc16Bytes 0 (d ++ [c.extractLsb' 8 8, c.extractLsb' 0 8]) = 0) ∧
  (∀ x y : List Byte, x.length = y.length →
    crc16Bytes 0 (List.zipWith (fun a b => a ^^^ b) x y) = crc16Bytes 0 x ^^^ crc16Bytes 0 y) ∧
  crc16Bytes 0 (List.replicate 512 0x00) = 0x0000 ∧
  crc16Bytes 0 (List.replicate 512 0xFF) = 0x7FA1 ∧
  crc16Bytes 0 ((List.range 512).map (fun i => BitVec.ofNat 8 i)) = 0x40DA ∧
  crc16Bytes 0 (List.replicate 512 0xA5) = 0x42BE ∧
  (crc16Step 0 0x01 = 0x1021 ∧ crc16Step 0 0x80 = 0x9188 ∧ crc16Step 0 0xFF = 0x1EF0) ∧
  crc16Bytes 0 [0x31, 0x32, 0x33, 0x34, 0x35, 0x36, 0x37, 0x38, 0x39] = 0x31C3

/-! ### Launch, faults -/

/-- The check order of a write to OPCODE and the launch requirements of each operation (R313, R316): after a fault the
write is ignored; while an operation runs OP_WHILE_BUSY; a reserved code RESERVED_OP; then the bus, Ready, chip-select
and buffer requirements of the operation's row, in this order; otherwise the launch latches the operands. A launch fault
leaves the latch alone, bits 31:5 are ignored, and an access to OPCODE that is not a 32-bit access is REG_ACCESS. -/
def Obligations.LaunchCheckOrder : Prop :=
  (∀ (i : Instr) (s : State), (opCode i).isSome = true ∨ isReserved i = true →
    (s.status.fault = true → exec i s = .next s) ∧
    (s.status.fault = false → s.busy = true → exec i s = .next (raiseFault .opWhileBusy s)) ∧
    (s.accepting → isReserved i = true → exec i s = .next (raiseFault .reservedOp s)) ∧
    (s.accepting → isReserved i = false →
      ((launchRow i).bus = true → s.bus.busEn = false → exec i s = .next (raiseFault .busDisabled s)) ∧
      (((launchRow i).bus = true → s.bus.busEn = true) → (launchRow i).ready = true → s.status.cardState ≠ .ready →
        exec i s = .next (raiseFault .notReady s)) ∧
      (((launchRow i).bus = true → s.bus.busEn = true) →
        ((launchRow i).ready = true → s.status.cardState = .ready) → (launchRow i).cs = true → s.bus.cs = false →
        exec i s = .next (raiseFault .notSelected s)) ∧
      (((launchRow i).bus = true → s.bus.busEn = true) →
        ((launchRow i).ready = true → s.status.cardState = .ready) →
        ((launchRow i).cs = true → s.bus.cs = true) → (launchRow i).buffer = true → ¬s.bufferAdmitted →
        exec i s = .next (raiseFault .dmaBusError s)) ∧
      (launchOk i s → ∃ t op, opCode i = some op ∧ exec i s = .next t ∧ t.lat = s.latchFor op ∧
        t.faultCode = s.faultCode ∧ t.status.fault = false))) ∧
  (∀ (code : FaultCode) (s : State), (raiseFault code s).lat = s.lat) ∧
  (∀ v : Word, decode (wordBytes v) = decode (wordBytes (v &&& 0x1F))) ∧
  (∀ (s : State) (addr : Word) (width : Width) (v : Word) (rest : List HostAction), s.params.inDomain = true →
    s.hostq = .store addr width v :: rest → windowOffset s.params addr = some 0 → width ≠ .w32 →
    step s = .next (raiseFault .regAccess { s with hostq := rest }))

/-- The launch actions of the multi-step operations (R314): the latch takes the operand registers, DONE, ERR and
ERRCODE are cleared, BUSY is 1, the Engine's sequence is the operation's; READ_BLOCK and WRITE_BLOCK clear CRC16 and set
XFER. Nothing else changes, memory included. -/
def Obligations.LaunchActions : Prop :=
  ∀ s : State, s.accepting →
    (launchOk .idleClocks s →
      exec .idleClocks s = .next (s.launched 0x06 (.idleClocks (s.data.extractLsb' 0 8).toNat))) ∧
    (launchOk .xferByte s → exec .xferByte s = .next (s.launched 0x07 .xferByte)) ∧
    (launchOk .xferWord s → exec .xferWord s = .next (s.launched 0x08 (.xferWord 0 0))) ∧
    (launchOk .cmdSend s → exec .cmdSend s = .next (s.launched 0x0D (.frame .cmdSend 0))) ∧
    (launchOk .readBlock s → exec .readBlock s = .next { s.launched 0x0E (.tokenWait 0) with
      crc16 := 0
      status := { s.status with done := false, err := false, errCode := .none, xfer := true } }) ∧
    (launchOk .writeBlock s → exec .writeBlock s = .next { s.launched 0x0F .writeToken with
      crc16 := 0, unordered := s.hostStores
      status := { s.status with done := false, err := false, errCode := .none, xfer := true } }) ∧
    (launchOk .stopTran s → exec .stopTran s = .next (s.launched 0x10 .stopToken)) ∧
    (launchOk .busyWait s → exec .busyWait s = .next (s.launched 0x11 (.busy .busyWait 0))) ∧
    exec .init s = .next (s.launched 0x12 (.initClocks 0)) ∧
    (∀ op c, c ≠ .idle → (s.launched op c).busy = true)

/-- A reserved code raises RESERVED_OP (R103): the instruction's own effect is to record the fault and halt the block.
Only the fault code, STATUS, the bus, INIT's phase and the wire change; the latch, the registers and memory do not. -/
def Obligations.ReservedCodes : Prop :=
  (∀ (i : Instr) (s : State), isReserved i = true → s.accepting →
    exec i s = .next { s with
      faultCode := .reservedOp
      status := s.status.halted
      bus := s.bus.only false
      init := { s.init with phase := .idle }
      wire := s.wire ++ s.releaseEvents }) ∧
  (∀ v : Word, 0x13 ≤ (v.extractLsb' 0 5).toNat → ∃ i, isReserved i = true ∧ decode (wordBytes v) = .ok i)

/-- Raising a fault (R321): the code and STATUS.FAULT are recorded, the block halts with the bus disabled and
chip-select released; DONE, ERR and ERRCODE keep their values, and so do the registers and memory (CRC7 and CRC16 too
where no operation ran); a second fault changes nothing; a faulting read returns 0; from then on writes are
ignored. -/
def Obligations.RaiseFault : Prop :=
  (∀ (code : FaultCode) (s : State), s.status.fault = false →
    ∃ c7 c16 d, raiseFault code s = { s with
      faultCode := code
      status := s.status.halted
      cont := .idle
      bus := s.bus.only false
      init := { s.init with phase := .idle }
      wire := s.wire ++ s.releaseEvents
      crc7 := c7, crc16 := c16, draws := d } ∧
      (s.cont = .idle → c7 = s.crc7 ∧ c16 = s.crc16 ∧ d = s.draws)) ∧
  (∀ (code : FaultCode) (s : State), s.status.fault = true → raiseFault code s = s) ∧
  (∀ (s : State) (addr : Word) (width : Width) (off : Nat), windowOffset s.params addr = some off →
    (width ≠ .w32 ∨ off % 4 ≠ 0) → hostLoad addr width s = .next { raiseFault .regAccess s with rdata := 0 }) ∧
  (∀ (s : State) (addr : Word) (v : Word) (off : Nat), s.status.fault = true → windowOffset s.params addr = some off →
    hostStore addr .w32 v s = .next s)

/-! ### The immediate operations -/

/-- NOP (R145): finishes at once with DONE = 1 and ERR = 0, and changes no other state than the launch does; with
CONFIG.IE = 1 it raises irq; from reset it leaves STATUS = 0x00000002. -/
def Obligations.NopCompletes : Prop :=
  (∀ v : Word, v.extractLsb' 0 5 = 0x00 → decode (wordBytes v) = .ok .nop) ∧
  (∀ s : State, s.accepting → ∃ t, exec .nop s = .next t ∧
    t = { s with lat := s.latchFor 0x00, status := s.status.completed, bus := { s.bus with width32 := false } } ∧
    t.irq = s.config.ie) ∧
  (∃ t, exec .nop State.reset = .next t ∧ t.statusWord = 0x00000002)

/-- BUS_ENABLE (R146): chip-select released with its event, the bus enabled on the slow clock with byte width, LEVEL and
CARD_STATE unchanged; a second one changes nothing; from reset BUSCTL = 0x00000001. -/
def Obligations.BusEnable : Prop :=
  (∀ v : Word, v.extractLsb' 0 5 = 0x01 → decode (wordBytes v) = .ok .busEnable) ∧
  (∀ s : State, s.accepting → exec .busEnable s = .next { s with
    lat := s.latchFor 0x01, status := s.status.completed, bus := s.bus.only true
    wire := s.wire ++ s.releaseEvents }) ∧
  (∀ s t : State, s.accepting → exec .busEnable s = .next t → exec .busEnable t = .next t) ∧
  (∃ t, exec .busEnable State.reset = .next t ∧ t.bus.word = 0x00000001)

/-- BUS_DISABLE (R147): chip-select released, the bus disabled with only LEVEL kept, CARD_STATE Uninitialized. From a
Ready session with LEVEL = 2, BUSCTL = 0x00000020. -/
def Obligations.BusDisable : Prop :=
  (∀ v : Word, v.extractLsb' 0 5 = 0x02 → decode (wordBytes v) = .ok .busDisable) ∧
  (∀ s : State, s.accepting → exec .busDisable s = .next { s with
    lat := s.latchFor 0x02, status := { s.status.completed with cardState := .uninitialized }
    bus := s.bus.only false, wire := s.wire ++ s.releaseEvents }) ∧
  (∀ s : State, s.accepting → s.status.cardState = .ready → s.bus.level = 2 →
    ∃ t, exec .busDisable s = .next t ∧ t.bus.word = 0x00000020 ∧ t.status.cardState = .uninitialized) ∧
  (∀ s : State, s.accepting → ∃ t, exec .busDisable s = .next t ∧
    t.bus.word = (s.bus.level.setWidth 32 <<< 4))

/-- CS_ASSERT and CS_RELEASE (R148, R149): chip-select set, with one event on the wire where it changes and none where
it does not; CS_ASSERT on a disabled bus raises BUS_DISABLED, CS_RELEASE works on one. -/
def Obligations.ChipSelect : Prop :=
  (∀ v : Word, v.extractLsb' 0 5 = 0x03 → decode (wordBytes v) = .ok .csAssert) ∧
  (∀ v : Word, v.extractLsb' 0 5 = 0x04 → decode (wordBytes v) = .ok .csRelease) ∧
  (∀ s : State, s.accepting → s.bus.busEn = true → exec .csAssert s = .next { s with
    lat := s.latchFor 0x03, status := s.status.completed
    bus := { s.bus with cs := true, width32 := false }, wire := s.wire ++ s.assertEvents }) ∧
  (∀ s : State, s.accepting → s.bus.busEn = false → exec .csAssert s = .next (raiseFault .busDisabled s)) ∧
  (∀ s : State, s.accepting → exec .csRelease s = .next { s with
    lat := s.latchFor 0x04, status := s.status.completed
    bus := { s.bus with cs := false, width32 := false }, wire := s.wire ++ s.releaseEvents })

/-- SET_SPEED (R150): DATA[0] = 0 selects the slow clock and keeps LEVEL, DATA[0] = 1 the operating clock at
CONFIG.SPEED_LEVEL; DATA's other bits are ignored; it is allowed on a disabled bus, where BUS_ENABLE then resets the
clock to slow and keeps the level. -/
def Obligations.SetSpeed : Prop :=
  (∀ v : Word, v.extractLsb' 0 5 = 0x05 → decode (wordBytes v) = .ok .setSpeed) ∧
  (∀ s : State, s.accepting → exec .setSpeed s = .next { s with
    lat := s.latchFor 0x05, status := s.status.completed
    bus := { s.bus with
      speedOp := s.data.getLsbD 0
      level := if s.data.getLsbD 0 then s.config.level else s.bus.level
      width32 := false } }) ∧
  (∀ s : State, s.accepting → s.config.level = 2 → s.data = 1 →
    ∃ t, exec .setSpeed s = .next t ∧ t.bus.speedOp = true ∧ t.bus.level = 2) ∧
  (∀ s : State, s.accepting → s.bus.busEn = false →
    ∃ t u, exec .setSpeed s = .next t ∧ t.bus.busEn = false ∧ t.bus.speedOp = s.data.getLsbD 0 ∧
      exec .busEnable t = .next u ∧ u.bus.busEn = true ∧ u.bus.speedOp = false ∧ u.bus.level = t.bus.level)

/-- CRC7_CLEAR and CRC7_FEED (R174, R175): CRC7 becomes 0, or takes one byte step with DATA[7:0]; no bus is needed and
nothing is sent. Feeding 0x40 and four 0x00 into 0 gives 0x4A, whose frame byte is 0x95. -/
def Obligations.Crc7Ops : Prop :=
  (∀ v : Word, v.extractLsb' 0 5 = 0x09 → decode (wordBytes v) = .ok .crc7Clear) ∧
  (∀ v : Word, v.extractLsb' 0 5 = 0x0A → decode (wordBytes v) = .ok .crc7Feed) ∧
  (∀ s : State, s.accepting → exec .crc7Clear s = .next { s with
    lat := s.latchFor 0x09, status := s.status.completed, bus := { s.bus with width32 := false }, crc7 := 0 }) ∧
  (∀ s : State, s.accepting → exec .crc7Feed s = .next { s with
    lat := s.latchFor 0x0A, status := s.status.completed, bus := { s.bus with width32 := false }
    crc7 := crc7Step s.crc7 (s.data.extractLsb' 0 8) }) ∧
  crc7Step 0 0x00 = 0 ∧
  crc7Bytes 0 [0x40, 0x00, 0x00, 0x00, 0x00] = 0x4A ∧
  ((0x4A#8 <<< 1) ||| 1 = 0x95#8)

/-- CRC16_CLEAR and CRC16_FEED (R188, R189): CRC16 becomes 0, or takes one byte step with DATA[7:0]; no bus is needed
and nothing is sent. Feeding 0x01 into 0 gives 0x1021. -/
def Obligations.Crc16Ops : Prop :=
  (∀ v : Word, v.extractLsb' 0 5 = 0x0B → decode (wordBytes v) = .ok .crc16Clear) ∧
  (∀ v : Word, v.extractLsb' 0 5 = 0x0C → decode (wordBytes v) = .ok .crc16Feed) ∧
  (∀ s : State, s.accepting → exec .crc16Clear s = .next { s with
    lat := s.latchFor 0x0B, status := s.status.completed, bus := { s.bus with width32 := false }, crc16 := 0 }) ∧
  (∀ s : State, s.accepting → exec .crc16Feed s = .next { s with
    lat := s.latchFor 0x0C, status := s.status.completed, bus := { s.bus with width32 := false }
    crc16 := crc16Step s.crc16 (s.data.extractLsb' 0 8) }) ∧
  crc16Step 0 0x00 = 0 ∧ crc16Step 0 0x01 = 0x1021

/-! ### The serializer -/

/-- IDLE_CLOCKS (R151): DATA[7:0] fill bytes are exchanged, their answers discarded, chip-select as it is; count 0 takes
one Engine step with no exchange. On a disabled bus it raises BUS_DISABLED. -/
def Obligations.IdleClocks : Prop :=
  (∀ v : Word, v.extractLsb' 0 5 = 0x06 → decode (wordBytes v) = .ok .idleClocks) ∧
  (∀ s : State, s.accepting → s.bus.busEn = false → exec .idleClocks s = .next (raiseFault .busDisabled s)) ∧
  (∀ (s : State) (rxs rest : List Byte), s.accepting → s.bus.busEn = true →
    rxs.length = (s.data.extractLsb' 0 8).toNat → s.card = rxs ++ rest →
    ∃ t, exec .idleClocks s = .next t ∧
      engineRun (max 1 rxs.length) t = .next { s with
        lat := s.latchFor 0x06, status := s.status.completed, bus := { s.bus with width32 := false }
        wire := s.wire ++ exchanges s.bus.cs s.bus (fills rxs.length) rxs, card := rest })

/-- XFER_BYTE (R152): DATA[7:0] is exchanged for a byte, which DATA receives with its upper bits 0; the CRC units are
not touched. On a disabled bus it raises BUS_DISABLED. -/
def Obligations.XferByte : Prop :=
  (∀ v : Word, v.extractLsb' 0 5 = 0x07 → decode (wordBytes v) = .ok .xferByte) ∧
  (∀ s : State, s.accepting → s.bus.busEn = false → exec .xferByte s = .next (raiseFault .busDisabled s)) ∧
  (∀ (s : State) (rx : Byte) (rest : List Byte), s.accepting → s.bus.busEn = true → s.card = rx :: rest →
    ∃ t, exec .xferByte s = .next t ∧
      engineStep t = .next { s with
        lat := s.latchFor 0x07, status := s.status.completed, bus := { s.bus with width32 := false }
        data := rx.setWidth 32
        wire := s.wire ++ exchanges s.bus.cs s.bus [s.data.extractLsb' 0 8] [rx], card := rest })

/-- XFER_WORD (R153): the four bytes of DATA are exchanged, bits 7:0 first, and DATA receives the four answers in the
same order; WIDTH32 is 1 between them and 0 at the end. On a disabled bus it raises BUS_DISABLED. -/
def Obligations.XferWord : Prop :=
  (∀ v : Word, v.extractLsb' 0 5 = 0x08 → decode (wordBytes v) = .ok .xferWord) ∧
  (∀ s : State, s.accepting → s.bus.busEn = false → exec .xferWord s = .next (raiseFault .busDisabled s)) ∧
  (∀ (s : State) (r0 r1 r2 r3 : Byte) (rest : List Byte), s.accepting → s.bus.busEn = true →
    s.card = [r0, r1, r2, r3] ++ rest →
    ∃ t, exec .xferWord s = .next t ∧
      (∀ k u, 0 < k → k < 4 → engineRun k t = .next u → u.bus.width32 = true) ∧
      engineRun 4 t = .next { s with
        lat := s.latchFor 0x08, status := s.status.completed, bus := { s.bus with width32 := false }
        data := r3 ++ r2 ++ r1 ++ r0
        wire := s.wire ++ exchanges s.bus.cs s.bus
          [s.data.extractLsb' 0 8, s.data.extractLsb' 8 8, s.data.extractLsb' 16 8, s.data.extractLsb' 24 8]
          [r0, r1, r2, r3]
        card := rest }) ∧
  (∀ (s : State) (rest : List Byte), s.accepting → s.bus.busEn = true → s.data = 0x44332211 →
    s.card = [0xA0, 0xB0, 0xC0, 0xD0] ++ rest →
    ∃ t u, exec .xferWord s = .next t ∧ engineRun 4 t = .next u ∧ u.data = 0xD0C0B0A0)

/-! ### The command transaction -/

/-- A transaction's frame, and the answers that INIT's transactions take (R200, R201, R203 to R206, R209, R273): whoever
runs the transaction, its first six exchanges send the six bytes of the frame under asserted chip-select, leave the
frame's CRC in CRC7, and the next byte is the stuff byte after CMD12 and a poll for R1 otherwise. INIT sets its phase and
counts the attempt with it; that it does so in the step of the frame's first byte is the model's inference (log 7). From
INIT's first poll on, the polls, R1 and the bytes that a good R1 to CMD8 or CMD58 brings lead to the trailing byte with
the transaction's status, R1 and tail as the Card answered, R1 held for RESP0 and a tail for RESP1: OK for an R1 without
an error bit, RERROR for one with an error bit, TIMEOUT for none within NCR_LIMIT polls. That INIT holds them until it
finishes is the model's inference (log 9). -/
def Obligations.FrameSent : Prop :=
  (∀ (s : State) (c : Caller) (rxs rest : List Byte), s.status.fault = false → s.bus.busEn = true →
    s.cont = .frame c 0 → rxs.length = 6 → s.card = rxs ++ rest →
    engineRun 6 s = .next { s with
      bus := { s.bus with cs := true }
      crc7 := frameCrc (c.idx s.lat) (c.arg s.lat)
      cont := if c.idx s.lat = 12 then .stuff c else .r1Poll c 0
      init := match c with
        | .cmdSend => s.init
        | .init cmd _ => { s.init with
            phase := cmd.phase
            attempt := if cmd = .crcOn ∨ cmd = .opCond then s.init.attempt else s.init.attempt + 1 }
      wire := s.wire ++ s.assertEvents ++ exchanges true s.bus (frameBytes (c.idx s.lat) (c.arg s.lat)) rxs
      card := rest }) ∧
  (∀ (s : State) (cmd : InitCmd) (p : Pending) (polls tail rest : List Byte) (r1 : Byte) (st : TxnStatus)
      (word : Option Word), s.status.fault = false → s.bus.busEn = true → s.cont = .r1Poll (.init cmd p) 0 →
    (∀ b ∈ polls, b.getLsbD 7 = true) → polls.length < s.params.ncrLimit →
    ((st = .timeout ∧ r1.getLsbD 7 = true ∧ polls.length + 1 = s.params.ncrLimit ∧ tail = [] ∧ word = none) ∨
     (st = .rerror ∧ r1.getLsbD 7 = false ∧ r1 &&& 0x7E ≠ 0 ∧ tail = [] ∧ word = none) ∨
     (st = .ok ∧ r1.getLsbD 7 = false ∧ r1 &&& 0x7E = 0 ∧ cmd ≠ .ifCond ∧ cmd ≠ .readOcr ∧ tail = [] ∧ word = none) ∨
     (st = .ok ∧ r1.getLsbD 7 = false ∧ r1 &&& 0x7E = 0 ∧ (cmd = .ifCond ∨ cmd = .readOcr) ∧
       ∃ a b c d, tail = [a, b, c, d] ∧ word = some (a ++ b ++ c ++ d))) →
    s.card = polls ++ [r1] ++ tail ++ rest →
    engineRun (polls.length + 1 + tail.length) s = .next { s with
      cont := .initTrail cmd st r1 word { r0 := some r1, r1 := if word = none then p.r1 else word }
      wire := s.wire
        ++ exchanges s.bus.cs s.bus (fills (polls.length + 1 + tail.length)) (polls ++ [r1] ++ tail)
      card := rest })

/-- CMD_SEND that succeeds (R203, R206 to R210): the frame, the stuff byte after CMD12, polls until R1, then what the
response type asks for, with POLL = 1 within R1b's busy poll. RESP0 receives R1, RESP1 the bytes after it for R3/R7 and
R2, CRC7 the frame's CRC; chip-select stays asserted; CARD_STATE, DATA and memory are unchanged. -/
def Obligations.CmdSendSucceeds : Prop :=
  ∀ (s : State) (skipped polls tail rest : List Byte) (r1 : Byte),
    s.accepting → s.bus.busEn = true →
    skipped.length = (sentFrame s.cmdIdx.idx s.cmdArg).length →
    (∀ b ∈ polls, b.getLsbD 7 = true) → polls.length < s.params.ncrLimit →
    r1.getLsbD 7 = false → r1 &&& 0x7E = 0 → goodTail s.params s.cmdIdx.rtype tail →
    s.card = skipped ++ polls ++ [r1] ++ tail ++ rest →
    ∃ t, exec .cmdSend s = .next t ∧
      (∀ j v, s.cmdIdx.rtype = .r1b → skipped.length + polls.length + 1 < j →
        j < skipped.length + polls.length + 1 + tail.length → engineRun j t = .next v → v.status.poll = true) ∧
      engineRun (skipped.length + polls.length + 1 + tail.length) t = .next { s with
        lat := s.latchFor 0x0D
        status := s.status.completed
        bus := { s.bus with cs := true, width32 := false }
        resp0 := r1
        resp1 := tailWord s.cmdIdx.rtype tail s.resp1
        crc7 := frameCrc s.cmdIdx.idx s.cmdArg
        wire := s.wire ++ s.assertEvents ++ exchanges true s.bus
          (sentFrame s.cmdIdx.idx s.cmdArg ++ fills (polls.length + 1 + tail.length)) (skipped ++ polls ++ [r1] ++ tail)
        card := rest }

/-- CMD_SEND that fails (R204, R205, R207, R208, R319): no R1 within NCR_LIMIT polls is R1_TIMEOUT with the last byte in
RESP0; an R1 with an error bit is R1_ERROR with no byte read after it; a busy signal past its bound, polled with POLL =
1, is BUSY_TIMEOUT. Each releases chip-select, demotes a Ready card, and leaves RESP1, DATA and memory unchanged. -/
def Obligations.CmdSendFails : Prop :=
  ∀ (s : State) (skipped polls tail rest : List Byte) (r1 : Byte) (code : ErrCode),
    s.accepting → s.bus.busEn = true →
    skipped.length = (sentFrame s.cmdIdx.idx s.cmdArg).length →
    (∀ b ∈ polls, b.getLsbD 7 = true) → polls.length < s.params.ncrLimit →
    ((code = .r1Timeout ∧ r1.getLsbD 7 = true ∧ polls.length + 1 = s.params.ncrLimit ∧ tail = []) ∨
     (code = .r1Error ∧ r1.getLsbD 7 = false ∧ r1 &&& 0x7E ≠ 0 ∧ tail = []) ∨
     (code = .busyTimeout ∧ r1.getLsbD 7 = false ∧ r1 &&& 0x7E = 0 ∧ s.cmdIdx.rtype = .r1b ∧
      (∀ b ∈ tail, b ≠ 0xFF) ∧ tail.length = s.params.busyFastSamples + s.params.busyPollLimit ∧ tail ≠ [])) →
    s.card = skipped ++ polls ++ [r1] ++ tail ++ rest →
    ∃ t, exec .cmdSend s = .next t ∧
      (∀ j v, skipped.length + polls.length + 1 < j → j < skipped.length + polls.length + 1 + tail.length →
        engineRun j t = .next v → v.status.poll = true) ∧
      engineRun (skipped.length + polls.length + 1 + tail.length) t = .next { s with
        lat := s.latchFor 0x0D
        status := s.status.failed code
        bus := { s.bus with cs := false, width32 := false }
        resp0 := r1
        crc7 := frameCrc s.cmdIdx.idx s.cmdArg
        wire := s.wire ++ s.assertEvents ++ exchanges true s.bus
          (sentFrame s.cmdIdx.idx s.cmdArg ++ fills (polls.length + 1 + tail.length)) (skipped ++ polls ++ [r1] ++ tail)
          ++ [.csChange false]
        card := rest }

/-- The command-frame rows (R106, R110, R211 to R223): in every state that takes a launch on an enabled bus, the row
writes CMDIDX and CMDARG and launches CMD_SEND with its index, response type and argument. After a fault it is ignored;
while an operation runs, or on a disabled bus, the registers are written and the launch faults. That a row runs as
R106's `CMD` is the model's choice (log 16, 17, 18). -/
def Obligations.FrameRowsComplete : Prop :=
  ∀ (s : State) (i : Instr) (idx : BitVec 6) (t : RespType) (arg : Word), frameFields s i = some (idx, t, arg) →
    (s.accepting → s.bus.busEn = true → exec i s = .next { s with
      cmdIdx := { idx := idx, rtype := t }
      cmdArg := arg
      lat := { op := 0x0D, idx := idx, rtype := t, arg := arg, data := s.data, buf := s.bufAddr, level := s.config.level }
      status := { s.status with done := false, err := false, errCode := .none }
      cont := .frame .cmdSend 0 }) ∧
    (s.accepting → s.bus.busEn = false →
      exec i s = .next (raiseFault .busDisabled { s with cmdIdx := { idx := idx, rtype := t }, cmdArg := arg })) ∧
    (s.status.fault = false → s.busy = true →
      exec i s = .next (raiseFault .opWhileBusy { s with cmdIdx := { idx := idx, rtype := t }, cmdArg := arg })) ∧
    (s.status.fault = true → exec i s = .next s)

/-- A well-formed command-frame row puts exactly its own bytes on the wire: after its launch, six Engine steps have sent
the encoding of the instruction under asserted chip-select, and nothing else. That a row runs as R106's `CMD` is the
model's choice (log 16). -/
def Obligations.FrameRowsOnWire : Prop :=
  ∀ (s : State) (i : Instr) (idx : BitVec 6) (rt : RespType) (arg : Word) (rxs rest : List Byte),
    frameFields s i = some (idx, rt, arg) → i.wellFormed = true → s.accepting → s.bus.busEn = true →
    rxs.length = 6 → s.card = rxs ++ rest →
    ∃ t u, exec i s = .next t ∧ engineRun 6 t = .next u ∧
      u.wire = s.wire ++ s.assertEvents ++ exchanges true s.bus (encode i) rxs ∧
      u.crc7 = frameCrc idx arg ∧ u.bus.cs = true ∧ u.mem = s.mem

/-! ### The data phase -/

/-- READ_BLOCK (R230 to R233, R86, R187): after any number of fill bytes below the bound and the start token, the 512
answers go to the buffer in increasing address order and into CRC16, the next two are the received CRC, high byte first,
which DATA receives; equal CRCs finish with DONE, unequal ones with DATA_CRC. No byte outside the buffer changes. XFER
is 1 up to the last data byte, and WIDTH32 is 1 between the data bytes where the buffer is word-aligned (R84, R90). That
the buffer's bytes then wait for a barrier after the end of this transfer, whatever the Host saw of an earlier one, is
tracked as the model chose (R94, log 12). -/
def Obligations.ReadBlockTransfers : Prop :=
  ∀ (s : State) (k : Nat) (block rest : List Byte) (hi lo : Byte), s.accepting → launchOk .readBlock s →
    s.mem.wf = true → k < s.params.tokenPollLimit → block.length = 512 →
    s.card = fills k ++ [0xFE] ++ block ++ [hi, lo] ++ rest →
    ∃ t u, exec .readBlock s = .next t ∧ engineRun (k + 1 + 512 + 2) t = .next u ∧
      (∀ i (h : i < block.length), u.mem.read (s.bufAddr.toNat + i) = block[i]) ∧
      (∀ a, (a < s.bufAddr.toNat ∨ s.bufAddr.toNat + 512 ≤ a) → u.mem.read a = s.mem.read a) ∧
      (∀ a, (a ∈ u.engStores ↔ a ∈ s.engStores ∨ s.bufAddr.toNat ≤ a ∧ a < s.bufAddr.toNat + 512) ∧
        (a ∈ u.seenStores ↔ a ∈ s.seenStores ∧ ¬(s.bufAddr.toNat ≤ a ∧ a < s.bufAddr.toNat + 512))) ∧
      (∀ j v, j < k + 1 + 512 + 2 → engineRun j t = .next v → v.status.xfer = decide (j < k + 1 + 512) ∧
        (k + 1 < j → v.bus.width32 = decide (j < k + 1 + 512 ∧ s.bufAddr.extractLsb' 0 2 = 0))) ∧
      u = { s with
        lat := s.latchFor 0x0E
        status := if hi ++ lo = crc16Bytes 0 block then s.status.completed else s.status.failed .dataCrc
        bus := { s.bus with cs := hi ++ lo = crc16Bytes 0 block, width32 := false }
        data := (hi ++ lo).setWidth 32
        crc16 := crc16Bytes 0 block
        wire := s.wire ++ exchanges true s.bus (fills (k + 1 + 512 + 2)) (fills k ++ [0xFE] ++ block ++ [hi, lo])
          ++ (if hi ++ lo = crc16Bytes 0 block then [] else [.csChange false])
        mem := u.mem, engStores := u.engStores, seenStores := u.seenStores, card := rest }

/-- READ_BLOCK with no start token (R231, R232, R236): TOKEN_POLL_LIMIT fill bytes are TOKEN_TIMEOUT with DATA = 0xFF; a
byte other than 0xFF and 0xFE before the token is TOKEN_FRAMING with that byte in DATA. No buffer byte is written. -/
def Obligations.ReadBlockTokenErrors : Prop :=
  ∀ (s : State) (k : Nat) (b : Byte) (code : ErrCode) (rest : List Byte), s.accepting → launchOk .readBlock s →
    k < s.params.tokenPollLimit →
    ((code = .tokenTimeout ∧ b = 0xFF ∧ k + 1 = s.params.tokenPollLimit) ∨
     (code = .tokenFraming ∧ b ≠ 0xFF ∧ b ≠ 0xFE)) →
    s.card = fills k ++ [b] ++ rest →
    ∃ t, exec .readBlock s = .next t ∧ engineRun (k + 1) t = .next { s with
      lat := s.latchFor 0x0E
      status := s.status.failed code
      bus := { s.bus with cs := false, width32 := false }
      data := b.setWidth 32
      crc16 := 0
      wire := s.wire ++ exchanges true s.bus (fills (k + 1)) (fills k ++ [b]) ++ [.csChange false]
      card := rest }

/-- WRITE_BLOCK that is accepted (R240 to R246): the start token that DATA[0] selects, the 512 bytes of the buffer in
increasing address order, their CRC-16 high byte first, then fill bytes until the data-response token, which DRESP
receives, and until the card is no longer busy. Memory, DATA and CARD_STATE are unchanged. XFER is 1 up to the last data
byte, WIDTH32 is 1 between the data bytes where the buffer is word-aligned, POLL is 1 within the busy poll (R84, R90,
R253). A byte of the buffer that no barrier ordered since the Host's store to it is sent as any byte (R94 (a)); which
bytes those are is tracked as the model chose (log 12). -/
def Obligations.WriteBlockTransfers : Prop :=
  ∀ (s : State) (skipped busy rest : List Byte) (k : Nat) (r : Byte), s.accepting → launchOk .writeBlock s →
    skipped.length = 515 → k < s.params.drespLimit → r ≠ 0xFF → r &&& 0x1F = 0x05 →
    (∀ b ∈ busy, b ≠ 0xFF) → busy.length < s.params.busyFastSamples + s.params.busyPollLimit →
    s.card = skipped ++ fills k ++ [r] ++ busy ++ [0xFF] ++ rest →
    ∃ (t : State) (sent : List Byte) (d : Nat), exec .writeBlock s = .next t ∧ sent.length = 512 ∧
      (∀ i (h : i < sent.length), s.bufAddr.toNat + i ∉ s.hostStores → sent[i] = s.mem.read (s.bufAddr.toNat + i)) ∧
      ((∀ i, i < 512 → s.bufAddr.toNat + i ∉ s.hostStores) → d = s.draws) ∧
      (∀ j v, j < 515 + k + 1 + busy.length + 1 → engineRun j t = .next v →
        v.status.xfer = decide (j < 513) ∧
        (1 < j → v.bus.width32 = decide (j < 513 ∧ s.bufAddr.extractLsb' 0 2 = 0)) ∧
        (515 + k + 1 < j → v.status.poll = true)) ∧
      engineRun (515 + k + 1 + busy.length + 1) t = .next { s with
        lat := s.latchFor 0x0F
        status := s.status.completed
        bus := { s.bus with width32 := false }
        dresp := r
        crc16 := crc16Bytes 0 sent
        wire := s.wire ++ exchanges true s.bus
          ((if s.data.getLsbD 0 then 0xFC else 0xFE) :: sent
            ++ [(crc16Bytes 0 sent).extractLsb' 8 8, (crc16Bytes 0 sent).extractLsb' 0 8]
            ++ fills (k + 1 + busy.length + 1))
          (skipped ++ fills k ++ [r] ++ busy ++ [0xFF])
        draws := d, unordered := s.hostStores, card := rest }

/-- WRITE_BLOCK that fails (R243 to R246): no token within DRESP_LIMIT polls is DRESP_TIMEOUT with DRESP = 0xFF; a token
with `& 0x1F` other than 0x05 is WRITE_REJECTED with no busy poll; a busy signal past its bound is BUSY_TIMEOUT. XFER,
WIDTH32 and POLL on the way are those of an accepted block, and so are the bytes sent (R94 (a), log 12). -/
def Obligations.WriteBlockFails : Prop :=
  ∀ (s : State) (skipped busy rest : List Byte) (k : Nat) (r : Byte) (code : ErrCode), s.accepting →
    launchOk .writeBlock s → skipped.length = 515 → k < s.params.drespLimit →
    ((code = .drespTimeout ∧ r = 0xFF ∧ k + 1 = s.params.drespLimit ∧ busy = []) ∨
     (code = .writeRejected ∧ r ≠ 0xFF ∧ r &&& 0x1F ≠ 0x05 ∧ busy = []) ∨
     (code = .busyTimeout ∧ r ≠ 0xFF ∧ r &&& 0x1F = 0x05 ∧ (∀ b ∈ busy, b ≠ 0xFF) ∧
      busy.length = s.params.busyFastSamples + s.params.busyPollLimit ∧ busy ≠ [])) →
    s.card = skipped ++ fills k ++ [r] ++ busy ++ rest →
    ∃ (t : State) (sent : List Byte) (d : Nat), exec .writeBlock s = .next t ∧ sent.length = 512 ∧
      (∀ i (h : i < sent.length), s.bufAddr.toNat + i ∉ s.hostStores → sent[i] = s.mem.read (s.bufAddr.toNat + i)) ∧
      ((∀ i, i < 512 → s.bufAddr.toNat + i ∉ s.hostStores) → d = s.draws) ∧
      (∀ j v, j < 515 + k + 1 + busy.length → engineRun j t = .next v →
        v.status.xfer = decide (j < 513) ∧
        (1 < j → v.bus.width32 = decide (j < 513 ∧ s.bufAddr.extractLsb' 0 2 = 0)) ∧
        (515 + k + 1 < j → v.status.poll = true)) ∧
      engineRun (515 + k + 1 + busy.length) t = .next { s with
        lat := s.latchFor 0x0F
        status := s.status.failed code
        bus := { s.bus with cs := false, width32 := false }
        dresp := r
        crc16 := crc16Bytes 0 sent
        wire := s.wire ++ exchanges true s.bus
          ((if s.data.getLsbD 0 then 0xFC else 0xFE) :: sent
            ++ [(crc16Bytes 0 sent).extractLsb' 8 8, (crc16Bytes 0 sent).extractLsb' 0 8]
            ++ fills (k + 1 + busy.length))
          (skipped ++ fills k ++ [r] ++ busy)
          ++ [.csChange false]
        draws := d, unordered := s.hostStores, card := rest }

/-- BUSY_WAIT (R250, R251): fill bytes until the first answer 0xFF, at most BUSY_FAST_SAMPLES + BUSY_POLL_LIMIT of them;
READY finishes with DONE, the bound with BUSY_TIMEOUT, which releases chip-select and demotes a Ready card. It needs no
Ready card. POLL is 1 between its exchanges. A disabled bus is BUS_DISABLED, a released chip-select NOT_SELECTED. -/
def Obligations.BusyWait : Prop :=
  (∀ v : Word, v.extractLsb' 0 5 = 0x11 → decode (wordBytes v) = .ok .busyWait) ∧
  (∀ s : State, s.accepting → s.bus.busEn = false → exec .busyWait s = .next (raiseFault .busDisabled s)) ∧
  (∀ s : State, s.accepting → s.bus.busEn = true → s.bus.cs = false →
    exec .busyWait s = .next (raiseFault .notSelected s)) ∧
  (∀ (s : State) (busy rest : List Byte), s.accepting → launchOk .busyWait s → (∀ b ∈ busy, b ≠ 0xFF) →
    busy.length < s.params.busyFastSamples + s.params.busyPollLimit → s.card = busy ++ [0xFF] ++ rest →
    ∃ t, exec .busyWait s = .next t ∧
      (∀ k u, 0 < k → k ≤ busy.length → engineRun k t = .next u → u.status.poll = true) ∧
      engineRun (busy.length + 1) t = .next { s with
        lat := s.latchFor 0x11
        status := s.status.completed
        bus := { s.bus with width32 := false }
        wire := s.wire ++ exchanges true s.bus (fills (busy.length + 1)) (busy ++ [0xFF])
        card := rest }) ∧
  (∀ (s : State) (busy rest : List Byte), s.accepting → launchOk .busyWait s → (∀ b ∈ busy, b ≠ 0xFF) →
    busy.length = s.params.busyFastSamples + s.params.busyPollLimit → busy ≠ [] → s.card = busy ++ rest →
    ∃ t, exec .busyWait s = .next t ∧
      engineRun busy.length t = .next { s with
        lat := s.latchFor 0x11
        status := s.status.failed .busyTimeout
        bus := { s.bus with cs := false, width32 := false }
        wire := s.wire ++ exchanges true s.bus (fills busy.length) busy ++ [.csChange false]
        card := rest })

/-- STOP_TRAN (R252): the stop token 0xFD, one discarded fill byte, then the busy poll; READY finishes with DONE and
chip-select stays asserted, the bound is BUSY_TIMEOUT. POLL is 1 during the poll. A disabled bus is BUS_DISABLED, a card
that is not Ready NOT_READY, a released chip-select NOT_SELECTED. -/
def Obligations.StopTran : Prop :=
  (∀ v : Word, v.extractLsb' 0 5 = 0x10 → decode (wordBytes v) = .ok .stopTran) ∧
  (∀ s : State, s.accepting → s.bus.busEn = false → exec .stopTran s = .next (raiseFault .busDisabled s)) ∧
  (∀ s : State, s.accepting → s.bus.busEn = true → s.status.cardState ≠ .ready →
    exec .stopTran s = .next (raiseFault .notReady s)) ∧
  (∀ s : State, s.accepting → s.bus.busEn = true → s.status.cardState = .ready → s.bus.cs = false →
    exec .stopTran s = .next (raiseFault .notSelected s)) ∧
  (∀ (s : State) (a b : Byte) (busy rest : List Byte), s.accepting → launchOk .stopTran s →
    (∀ x ∈ busy, x ≠ 0xFF) → busy.length < s.params.busyFastSamples + s.params.busyPollLimit →
    s.card = [a, b] ++ busy ++ [0xFF] ++ rest →
    ∃ t, exec .stopTran s = .next t ∧
      (∀ k u, 2 < k → k ≤ 2 + busy.length → engineRun k t = .next u → u.status.poll = true) ∧
      engineRun (2 + busy.length + 1) t = .next { s with
        lat := s.latchFor 0x10
        status := s.status.completed
        bus := { s.bus with width32 := false }
        wire := s.wire ++ exchanges true s.bus (0xFD :: fills (busy.length + 2)) ([a, b] ++ busy ++ [0xFF])
        card := rest }) ∧
  (∀ (s : State) (a b : Byte) (busy rest : List Byte), s.accepting → launchOk .stopTran s →
    (∀ x ∈ busy, x ≠ 0xFF) → busy.length = s.params.busyFastSamples + s.params.busyPollLimit → busy ≠ [] →
    s.card = [a, b] ++ busy ++ rest →
    ∃ t, exec .stopTran s = .next t ∧
      engineRun (2 + busy.length) t = .next { s with
        lat := s.latchFor 0x10
        status := s.status.failed .busyTimeout
        bus := { s.bus with cs := false, width32 := false }
        wire := s.wire ++ exchanges true s.bus (0xFD :: fills (busy.length + 1)) ([a, b] ++ busy) ++ [.csChange false]
        card := rest })

/-- The token rows (R115, R117, R120): where the Engine is about to send the byte, the row's exchange sends it; elsewhere
the Card answers the exchange with it. The start token 0xFE begins the data of a waiting READ_BLOCK, and every other
token is a framing error there; WRITE_BLOCK sends 0xFE or 0xFC as DATA[0] says and goes on with its data; STOP_TRAN sends
0xFD; a data-response token that WRITE_BLOCK waits for goes to DRESP and is accepted iff its low five bits are 0x05. With
no operation running nothing happens. In every state of the invariant a token row answers a next state. That a token row
is one Engine step is the model's choice (log 19). -/
def Obligations.TokenRows : Prop :=
  (∀ (s : State) (i : Instr) (b : Byte),
    i = .startToken ∨ i = .startTokenMulti ∨ i = .stopToken ∨ (∃ x y, i = .dataResponse x y) → encode i = [b] →
    (s.Inv → ∃ t, exec i s = .next t) ∧ (s.cont = .idle → exec i s = .next s) ∧
    (s.cont ≠ .idle → engineTx (enginePrepare s) = some b → exec i s = engineStep s) ∧
    (s.cont ≠ .idle → engineTx (enginePrepare s) ≠ some b → exec i s = engineStep { s with card := b :: s.card }) ∧
    (∀ k, s.Inv → s.cont = .tokenWait k → b ≠ 0xFE → exec i s = .next { s with
      cont := .idle, status := s.status.failed .tokenFraming, bus := { s.bus with cs := false, width32 := false }
      data := b.setWidth 32, wire := s.wire ++ exchanges s.bus.cs s.bus [0xFF] [b] ++ s.releaseEvents })) ∧
  (∀ (s : State) (k : Nat), s.status.fault = false → s.bus.busEn = true → s.cont = .tokenWait k →
    exec .startToken s = .next { s with
      cont := .readData 0, wire := s.wire ++ exchanges s.bus.cs s.bus [0xFF] [0xFE] }) ∧
  (∀ (s : State) (rx : Byte) (rest : List Byte), s.status.fault = false → s.bus.busEn = true → s.cont = .writeToken →
    s.card = rx :: rest →
    (s.lat.data.getLsbD 0 = false → exec .startToken s = .next { s with
      cont := .writeData 0, wire := s.wire ++ exchanges s.bus.cs s.bus [0xFE] [rx], card := rest }) ∧
    (s.lat.data.getLsbD 0 = true → exec .startTokenMulti s = .next { s with
      cont := .writeData 0, wire := s.wire ++ exchanges s.bus.cs s.bus [0xFC] [rx], card := rest })) ∧
  (∀ (s : State) (rx : Byte) (rest : List Byte), s.status.fault = false → s.bus.busEn = true → s.cont = .stopToken →
    s.card = rx :: rest →
    exec .stopToken s = .next { s with
      cont := .stopGap, wire := s.wire ++ exchanges s.bus.cs s.bus [0xFD] [rx], card := rest }) ∧
  (∀ (s : State) (k : Nat) (x y : BitVec 3) (b : Byte), s.Inv → s.cont = .writeResp k → b = x ++ 0#1 ++ y ++ 1#1 →
    (b &&& 0x1F = 0x05 → exec (.dataResponse x y) s = .next { s with
      cont := .busy .writeBlock 0, dresp := b, wire := s.wire ++ exchanges s.bus.cs s.bus [0xFF] [b] }) ∧
    (b &&& 0x1F ≠ 0x05 → exec (.dataResponse x y) s = .next { s with
      cont := .idle, dresp := b, status := s.status.failed .writeRejected
      bus := { s.bus with cs := false, width32 := false }
      wire := s.wire ++ exchanges s.bus.cs s.bus [0xFF] [b] ++ s.releaseEvents }))

/-! ### INIT -/

/-- INIT's start and phase a (R272, R274): from any card state and any bus the first Engine step releases chip-select,
enables the bus on the slow clock, clears CARD_STATE and the counters and exchanges the first fill byte; after
IDLE_CLOCK_BYTES exchanges with chip-select released CMD0 is next. That the set-up runs in the step of the first exchange
is the model's inference (log 7). -/
def Obligations.InitClocks : Prop :=
  ∀ (s : State) (rxs rest : List Byte), s.params.inDomain = true → s.accepting →
    rxs.length = s.params.idleClockBytes → s.card = rxs ++ rest →
    ∃ t, exec .init s = .next t ∧
      (∃ u, engineStep t = .next u ∧ u.bus = s.bus.only true ∧ u.status.cardState = .uninitialized ∧
        u.init = { phase := .clocks, attempt := 0, absent := 0 } ∧ u.cont = .initClocks 1 ∧
        u.wire = s.wire ++ s.releaseEvents ++ exchanges false (s.bus.only true) [0xFF] (rxs.take 1)) ∧
      engineRun rxs.length t = .next { s with
        lat := s.latchFor 0x12
        status := { s.status with done := false, err := false, errCode := .none, cardState := .uninitialized }
        bus := s.bus.only true
        init := { phase := .clocks, attempt := 0, absent := 0 }
        cont := .frame (.init .goIdle { r0 := none, r1 := none }) 0
        wire := s.wire ++ s.releaseEvents ++ exchanges false (s.bus.only true) (fills rxs.length) rxs
        card := rest }

/-- INIT's phases b to h: what each does with the result of its command, in the step of the trailing fill byte that
follows chip-select's release (R273, R275 to R281). Where INIT ends with it, with success or with failure, RESP0 and
RESP1 receive what its transactions held for them (R282, R283). Which step holds the set-up of the next command, and that
RESP0 and RESP1 appear at INIT's finish, are the model's inferences (log 7, 9). -/
def Obligations.InitPhases : Prop :=
  ∀ (s : State) (cmd : InitCmd) (st : TxnStatus) (r1 : Byte) (tail : Option Word) (p : Pending),
    s.status.fault = false → s.bus.busEn = true → s.cont = .initTrail cmd st r1 tail p →
    ∃ t rx, engineStep s = .next t ∧
      t.wire = s.wire ++ s.releaseEvents ++ exchanges false s.bus [0xFF] [rx] ∧
      t.bus.cs = false ∧ t.mem = s.mem ∧
      (t.cont = .idle → t.resp0 = p.r0.getD s.resp0 ∧ t.resp1 = p.r1.getD s.resp1) ∧
      (cmd = .goIdle →
        (st = .ok ∧ r1 = 0x01 → t.status.cardState = .resetAcknowledged ∧ t.init.attempt = 0 ∧
          t.cont = .frame (.init .ifCond p) 0) ∧
        (¬(st = .ok ∧ r1 = 0x01) → ∀ n, n = (if st = .timeout then s.init.absent + 1 else 0) →
          (s.params.cmd0AbsentLimit ≤ n → InitFailed .initCardAbsent s t) ∧
          (n < s.params.cmd0AbsentLimit → s.params.cmd0Limit ≤ s.init.attempt → InitFailed .initIdleFailed s t) ∧
          (n < s.params.cmd0AbsentLimit → s.init.attempt < s.params.cmd0Limit →
            t.init.absent = n ∧ t.init.attempt = s.init.attempt ∧ t.cont = .frame (.init .goIdle p) 0))) ∧
      (cmd = .ifCond →
        (st = .ok ∧ r1 = 0x01 ∧ (∃ v, tail = some v ∧ v.extractLsb' 0 12 = 0x1AA) →
          t.status.cardState = .voltageNegotiated ∧ t.init.attempt = 0 ∧ t.cont = .frame (.init .crcOn p) 0) ∧
        (¬(st = .ok ∧ r1 = 0x01 ∧ (∃ v, tail = some v ∧ v.extractLsb' 0 12 = 0x1AA)) →
          (s.params.cmd8Limit ≤ s.init.attempt → InitFailed .initIfcondFailed s t) ∧
          (s.init.attempt < s.params.cmd8Limit → t.cont = .frame (.init .ifCond p) 0))) ∧
      (cmd = .crcOn →
        (st = .ok → t.init.attempt = 0 ∧ t.cont = .frame (.init .appCmd p) 0) ∧
        (st ≠ .ok → InitFailed .initCrconFailed s t)) ∧
      (cmd = .appCmd →
        (st = .ok → t.cont = .frame (.init .opCond p) 0) ∧
        (st ≠ .ok → s.params.acmd41Limit ≤ s.init.attempt → InitFailed .initOpcondFailed s t) ∧
        (st ≠ .ok → s.init.attempt < s.params.acmd41Limit → t.cont = .frame (.init .appCmd p) 0)) ∧
      (cmd = .opCond →
        (st = .ok ∧ r1 = 0x00 → t.cont = .speedUp p) ∧
        (¬(st = .ok ∧ r1 = 0x00) → s.params.acmd41Limit ≤ s.init.attempt → InitFailed .initOpcondFailed s t) ∧
        (¬(st = .ok ∧ r1 = 0x00) → s.init.attempt < s.params.acmd41Limit → t.cont = .frame (.init .appCmd p) 0)) ∧
      (cmd = .readOcr →
        (st = .ok ∧ r1 = 0x00 → t.init.attempt = 0 ∧ t.cont = .frame (.init .blockLen p) 0) ∧
        (¬(st = .ok ∧ r1 = 0x00) → s.params.cmd58Limit ≤ s.init.attempt → InitFailed .initOcrFailed s t) ∧
        (¬(st = .ok ∧ r1 = 0x00) → s.init.attempt < s.params.cmd58Limit → t.cont = .frame (.init .readOcr p) 0)) ∧
      (cmd = .blockLen →
        (st = .ok ∧ r1 = 0x00 → t.cont = .idle ∧ t.status.cardState = .ready ∧ t.status.done = true ∧
          t.status.err = false ∧ t.init.phase = .idle) ∧
        (¬(st = .ok ∧ r1 = 0x00) → s.params.cmd16Limit ≤ s.init.attempt → InitFailed .initBlocklenFailed s t) ∧
        (¬(st = .ok ∧ r1 = 0x00) → s.init.attempt < s.params.cmd16Limit → t.cont = .frame (.init .blockLen p) 0))

/-- INIT's phase f (R279): one Engine step with no exchange raises the bus to the operating clock at the latched level,
and CMD58 is next with its attempt count at 0 (the step's bounds are the model's inference, log 7). -/
def Obligations.InitSpeedUp : Prop :=
  ∀ (s : State) (p : Pending), s.cont = .speedUp p →
    engineStep s = .next { s with
      init := { s.init with phase := .speedUp, attempt := 0 }
      bus := { s.bus with speedOp := true, level := s.lat.level }
      cont := .frame (.init .readOcr p) 0 }

/-- The cooperative card's run (R289): from reset with the default parameters INIT takes 91 Engine steps and 90
exchanges, and ends in the state of R283 with RESP1 = 0xC0FF8000 and STATUS = 0x000000C2. -/
def Obligations.InitCooperative : Prop :=
  ∃ t u, exec .init { State.reset with card := (
      fills 10 ++ (fills 6 ++ [0x01] ++ fills 1) ++ (fills 6 ++ [0x01, 0x00, 0x00, 0x01, 0xAA] ++ fills 1)
      ++ (fills 6 ++ [0x01] ++ fills 1) ++ (fills 6 ++ [0x01] ++ fills 1) ++ (fills 6 ++ [0x01] ++ fills 1)
      ++ (fills 6 ++ [0x01] ++ fills 1) ++ (fills 6 ++ [0x00] ++ fills 1)
      ++ (fills 6 ++ [0x00, 0xC0, 0xFF, 0x80, 0x00] ++ fills 1) ++ (fills 6 ++ [0x00] ++ fills 1)) } = .next t ∧
    engineRun 91 t = .next u ∧ (u.wire.filter isExchange).length = 90 ∧
    u.cont = .idle ∧ u.statusWord = 0x000000C2 ∧ u.resp0 = 0x00 ∧ u.resp1 = 0xC0FF8000 ∧ u.crc7 = 0x0A ∧
    u.bus = { busEn := true, cs := false, speedOp := true, width32 := false, level := 0 } ∧
    u.crc16 = 0 ∧ u.data = 0 ∧ u.init.phase = .idle ∧ u.card = []

/-- How INIT ends, whatever the Card answered (R282, R283): with ERR the bus is disabled and the card Uninitialized;
without it the bus runs on the operating clock at the latched level with chip-select released, the card is Ready, RESP0
is 0 and CRC7 is the CRC of the CMD16 frame. Either way RESP0 is the last transaction's R1, and RESP1 the word that the
last transaction to bring one brought, the OCR on success. Memory, CRC16 and DATA are unchanged by the step. RESP0 and
RESP1 appearing at INIT's finish is the model's inference (log 9). -/
def Obligations.InitEnds : Prop :=
  ∀ s t : State, s.Inv → s.cont.runsInit = true → engineStep s = .next t → t.cont = .idle →
    t.status.done = true ∧ t.status.xfer = false ∧ t.status.poll = false ∧ t.init.phase = .idle ∧
    t.mem = s.mem ∧ t.crc16 = s.crc16 ∧ t.data = s.data ∧
    (∃ cmd st r1 tail p, s.cont = .initTrail cmd st r1 tail p ∧ t.resp0 = r1 ∧ t.resp1 = p.r1.getD s.resp1 ∧
      (st = .ok → ∀ v, tail = some v → t.resp1 = v)) ∧
    (t.status.err = true → t.bus = s.bus.only false ∧ t.status.cardState = .uninitialized) ∧
    (t.status.err = false →
      t.bus = { busEn := true, cs := false, speedOp := true, width32 := false, level := s.lat.level } ∧
      t.status.cardState = .ready ∧ t.resp0 = 0 ∧ t.crc7 = 0x0A)

/-! ### The whole machine -/

/-- The model's invariant (State.Inv) holds at reset. -/
def Obligations.InvReset : Prop :=
  State.reset.Inv

/-- Every step keeps the invariant, in every state that meets it: the parameters in their domain, memory in canonical
form, every poll within its bound, the registers consistent with the program point, chip-select asserted where the
operation needs it and every change of it on the wire, the block halted after a fault. -/
def Obligations.InvStep : Prop :=
  ∀ s t : State, s.Inv → step s = .next t → t.Inv

/-- The only transitions of CARD_STATE (R290): forward one by one inside INIT, each with its command's good response,
and back to Uninitialized at INIT's start, at an ERR finish, at BUS_DISABLE, at a fault and at reset. -/
def Obligations.CardStateMoves : Prop :=
  ∀ s t : State, s.Inv → step s = .next t → t.status.cardState ≠ s.status.cardState →
    (t.status.cardState = .uninitialized ∧
      (s.cont = .initClocks 0 ∨
       (s.status.err = false ∧ t.status.err = true) ∨
       (t.lat.op = 0x02 ∧ t.status.done = true ∧ t.bus.busEn = false) ∨
       (s.status.fault = false ∧ t.status.fault = true) ∨
       s.hostq.head? = some .reset)) ∨
    (s.status.cardState = .uninitialized ∧ t.status.cardState = .resetAcknowledged ∧
      ∃ tail p, s.cont = .initTrail .goIdle .ok 0x01 tail p) ∨
    (s.status.cardState = .resetAcknowledged ∧ t.status.cardState = .voltageNegotiated ∧
      ∃ v p, s.cont = .initTrail .ifCond .ok 0x01 (some v) p ∧ v.extractLsb' 0 12 = 0x1AA) ∨
    (s.status.cardState = .voltageNegotiated ∧ t.status.cardState = .ready ∧
      ∃ tail p, s.cont = .initTrail .blockLen .ok 0x00 tail p)

/-- A fault is final until reset (R57, R321): whatever the Host and the scheduler do next but a reset, the fault and its
code stay, and no register, no internal field and nothing on the wire changes. -/
def Obligations.FaultIsFinal : Prop :=
  ∀ s t : State, s.Inv → s.status.fault = true → step s = .next t → s.hostq.head? ≠ some .reset →
    t.status = s.status ∧ t.faultCode = s.faultCode ∧ t.lat = s.lat ∧ t.config = s.config ∧ t.cmdIdx = s.cmdIdx ∧
    t.cmdArg = s.cmdArg ∧ t.data = s.data ∧ t.bufAddr = s.bufAddr ∧ t.resp0 = s.resp0 ∧ t.resp1 = s.resp1 ∧
    t.dresp = s.dresp ∧ t.crc7 = s.crc7 ∧ t.crc16 = s.crc16 ∧ t.bus = s.bus ∧ t.cont = .idle ∧ t.init = s.init ∧
    t.wire = s.wire

/-- The wire (R11, R53, R140): no step but a reset takes an event off it; a step adds at most one exchange, only with an
operation running, and that exchange carries the chip-select, the clock and the level of BUSCTL at that moment. -/
def Obligations.WireGrows : Prop :=
  ∀ s t : State, s.Inv → step s = .next t → s.hostq.head? ≠ some .reset →
    ∃ before after : List WireEvent, (∀ e ∈ before ++ after, isExchange e = false) ∧
      (t.wire = s.wire ++ before ++ after ∨
       (s.cont ≠ .idle ∧ ∃ tx rx, t.wire = s.wire ++ before
          ++ [.exchange (csLevel (s.wire ++ before)) (enginePrepare s).bus.speedOp (enginePrepare s).bus.level tx rx]
          ++ after))

/-- The Engine's exchange (R12, R140): where the running operation is about to send tx, its step takes one answer of the
Card, the next scripted one where there is one and any byte where there is none, and appends exactly the exchange of tx
for it; two steps from states that differ in the scripted answers alone send the same byte. -/
def Obligations.EngineExchange : Prop :=
  ∀ (s : State) (tx : Byte), s.Inv → s.cont ≠ .idle → engineTx (enginePrepare s) = some tx →
    (∀ rx rest,
      (s.card = rx :: rest ∨
       (s.card = [] ∧ rest = [] ∧
        rx = Config.cardAnswer s.draws (enginePrepare s).wire (enginePrepare s).bus.cs tx)) →
      ∃ t more, engineStep s = .next t ∧ t.card = rest ∧ (s.card = [] → s.draws < t.draws) ∧
      (∀ e ∈ more, isExchange e = false) ∧
      t.wire = (enginePrepare s).wire
        ++ [.exchange (enginePrepare s).bus.cs (enginePrepare s).bus.speedOp (enginePrepare s).bus.level tx rx]
        ++ more) ∧
    (∀ l, engineTx (enginePrepare { s with card := l }) = some tx)

/-- What may change a byte of system memory (R83): the Host's own store to that byte, and the Engine's store of data
byte i of READ_BLOCK at `lat.buf + i`, inside the buffer that the launch admitted. Nothing else changes any byte. -/
def Obligations.MemoryWrites : Prop :=
  ∀ (s t : State) (a : Nat), s.Inv → step s = .next t → t.mem.read a ≠ s.mem.read a →
    (∃ addr width v rest, s.hostq = .store addr width v :: rest ∧ windowOffset s.params addr = none ∧
      addr.toNat ≤ a ∧ a < addr.toNat + width.bytes) ∨
    (∃ i : Fin 512, s.cont = .readData i ∧ a = s.lat.buf.toNat + i.val ∧ memAdmits s.params s.lat.buf.toNat 512 = true)

/-- The operand registers are latched at launch (R50, R362): a Host write to CONFIG, CMDIDX, CMDARG, BUFADDR or DATA while
an operation runs changes no Engine step: the step gives the same state with that register written. Where the step
itself writes DATA, its result replaces what the Host wrote, and the step gives the same state. -/
def Obligations.OperandsLatched : Prop :=
  ∀ (s t : State) (v : Word), s.status.fault = false → t.status.fault = false → s.cont ≠ .idle → engineStep s = .next t →
    (∀ off, off = 0x08 ∨ off = 0x0C ∨ off = 0x10 ∨ off = 0x18 →
      engineStep (regWrite off v s) = .next (regWrite off v t)) ∧
    (writesData s t → engineStep (regWrite 0x14 v s) = .next t) ∧
    (¬writesData s t → engineStep (regWrite 0x14 v s) = .next (regWrite 0x14 v t))

/-- Results appear only at the finish (R55, R361): while the operation goes on, its steps change none of RESP0, RESP1,
DATA, DONE, ERR and ERRCODE, and DRESP only in the step of WRITE_BLOCK that receives the token (R244). For INIT's RESP0
and RESP1 this is the model's inference (log 9). -/
def Obligations.ResultsAtFinish : Prop :=
  ∀ s t : State, s.cont ≠ .idle → engineStep s = .next t → t.cont ≠ .idle →
    t.resp0 = s.resp0 ∧ t.resp1 = s.resp1 ∧ t.data = s.data ∧ t.status.done = s.status.done ∧
    t.status.err = s.status.err ∧ t.status.errCode = s.status.errCode ∧
    (t.dresp ≠ s.dresp → ∃ k, s.cont = .writeResp k)

/-- Every finish (R253, R318, R319, R327): a step that ends an operation sets DONE and clears XFER, POLL and WIDTH32;
with ERR it has released chip-select and left no Ready card, with a code other than NONE; without it ERRCODE is NONE. -/
def Obligations.EngineFinish : Prop :=
  ∀ s t : State, s.Inv → s.cont ≠ .idle → engineStep s = .next t → t.cont = .idle →
    t.status.done = true ∧ t.status.xfer = false ∧ t.status.poll = false ∧ t.bus.width32 = false ∧
    t.busy = false ∧ t.status.fault = false ∧
    (t.status.err = true → t.bus.cs = false ∧ t.status.cardState ≠ .ready ∧ t.status.errCode ≠ .none) ∧
    (t.status.err = false → t.status.errCode = .none)

/-- What the block never does (R375): in a state of the invariant an Engine step is never a model fault, so no byte is
exchanged on a disabled bus and none after a fault. -/
def Obligations.NoModelFault : Prop :=
  ∀ s : State, s.Inv → ∃ t, engineStep s = .next t

/-- Every operation ends within the bound of R372, whatever the Card answers: from a launch that passes its checks, the
Engine's steps reach the finish in at most the table's number of them; the last clauses are the table's numbers for the
default parameters. -/
def Obligations.Terminates : Prop :=
  (∀ (i : Instr) (s t : State), s.Inv → s.params.inDomain = true → s.accepting → (opCode i).isSome = true → launchOk i s →
    exec i s = .next t → ∃ n u, n ≤ launchBound i s ∧ engineRun n t = .next u ∧ u.cont = .idle ∧ u.status.done = true) ∧
  (∀ s : State, s.params = Params.default →
    (s.cmdIdx.rtype ≠ .r1b → launchBound .cmdSend s = 19) ∧
    (s.cmdIdx.rtype = .r1b → launchBound .cmdSend s = 1048595) ∧
    launchBound .readBlock s = 66050 ∧ launchBound .writeBlock s = 1049103 ∧ launchBound .stopTran s = 1048582 ∧
    launchBound .busyWait s = 1048580 ∧ launchBound .init s = 127594)

/-! ### The register window and system memory -/

/-- What a 32-bit read of each register returns (R32, R34 to R47), field by field, and that the read changes nothing of
the block (R99). That a read of STATUS with DONE = 1 or XFER = 0 is noted for the Host's next barrier is the model's
tracking (R94, log 12). -/
def Obligations.RegisterReads : Prop :=
  (∀ (s : State) (addr : Word) (off : Nat) (rest : List HostAction), s.params.inDomain = true →
    s.hostq = .load addr .w32 :: rest → windowOffset s.params addr = some off → off % 4 = 0 →
    ∃ t, step s = .next t ∧ t.rdata = regValue off s ∧
      t = { s with
        rdata := t.rdata, draws := t.draws, hostq := rest
        seenStores :=
          if off = 0x04 ∧ (s.status.done = true ∨ s.status.xfer = false) then s.engStores else s.seenStores }) ∧
  (∀ s : State,
    regValue 0x00 s = s.lat.op.setWidth 32 ∧
    ((regValue 0x04 s).getLsbD 0 = s.busy ∧ (regValue 0x04 s).getLsbD 1 = s.status.done ∧
     (regValue 0x04 s).getLsbD 2 = s.status.err ∧ (regValue 0x04 s).getLsbD 3 = s.status.xfer ∧
     (regValue 0x04 s).getLsbD 4 = s.status.poll ∧ (regValue 0x04 s).getLsbD 5 = s.status.fault ∧
     (regValue 0x04 s).extractLsb' 6 2 = s.status.cardState.code ∧
     (regValue 0x04 s).extractLsb' 8 4 = s.status.errCode.code ∧
     (regValue 0x04 s).extractLsb' 12 4 = s.init.phase.code ∧ (regValue 0x04 s).extractLsb' 16 16 = 0) ∧
    ((regValue 0x08 s).getLsbD 0 = s.config.ie ∧ (regValue 0x08 s).extractLsb' 1 3 = 0 ∧
     (regValue 0x08 s).extractLsb' 4 2 = s.config.level ∧ (regValue 0x08 s).extractLsb' 6 26 = 0) ∧
    ((regValue 0x0C s).extractLsb' 0 6 = s.cmdIdx.idx ∧ (regValue 0x0C s).extractLsb' 6 2 = 0 ∧
     (regValue 0x0C s).extractLsb' 8 2 = s.cmdIdx.rtype.code ∧ (regValue 0x0C s).extractLsb' 10 22 = 0) ∧
    regValue 0x10 s = s.cmdArg ∧ regValue 0x14 s = s.data ∧ regValue 0x18 s = s.bufAddr ∧
    regValue 0x1C s = s.resp0.setWidth 32 ∧ regValue 0x20 s = s.resp1 ∧ regValue 0x24 s = s.dresp.setWidth 32 ∧
    (s.busy = false → regValue 0x28 s = s.crc7.setWidth 32 ∧ regValue 0x2C s = s.crc16.setWidth 32) ∧
    ((regValue 0x30 s).getLsbD 0 = s.bus.busEn ∧ (regValue 0x30 s).getLsbD 1 = s.bus.cs ∧
     (regValue 0x30 s).getLsbD 2 = s.bus.speedOp ∧ (regValue 0x30 s).getLsbD 3 = s.bus.width32 ∧
     (regValue 0x30 s).extractLsb' 4 2 = s.bus.level ∧ (regValue 0x30 s).extractLsb' 6 26 = 0) ∧
    regValue 0x34 s = s.faultCode.code.setWidth 32 ∧ regValue 0x38 s = 0 ∧ regValue 0x3C s = 0)

/-- What a 32-bit write of each register does (R33, R35 to R40, R57, R99): CONFIG, CMDIDX, CMDARG, DATA and BUFADDR store
the value in their fields, STATUS clears DONE where bit 1 is 1 and ERR with ERRCODE where bit 2 is 1, every read-only
register and reserved offset ignores it, and after a fault every write is ignored. Nothing else changes, memory
included. -/
def Obligations.RegisterWrites : Prop :=
  ∀ (s : State) (addr v : Word) (off : Nat) (rest : List HostAction), s.params.inDomain = true →
    s.hostq = .store addr .w32 v :: rest → windowOffset s.params addr = some off → off % 4 = 0 → off ≠ 0 →
    (s.status.fault = true → step s = .next { s with hostq := rest }) ∧
    (s.status.fault = false →
      (off = 0x04 → step s = .next { s with hostq := rest, status := { s.status with
        done := s.status.done && !v.getLsbD 1
        err := s.status.err && !v.getLsbD 2
        errCode := if v.getLsbD 2 then .none else s.status.errCode } }) ∧
      (off = 0x08 → ∃ c : ConfigReg, c.ie = v.getLsbD 0 ∧ c.level = v.extractLsb' 4 2 ∧
        step s = .next { s with hostq := rest, config := c }) ∧
      (off = 0x0C → ∃ c : CmdIdxReg, c.idx = v.extractLsb' 0 6 ∧ c.rtype.code = v.extractLsb' 8 2 ∧
        step s = .next { s with hostq := rest, cmdIdx := c }) ∧
      (off = 0x10 → step s = .next { s with hostq := rest, cmdArg := v }) ∧
      (off = 0x14 → step s = .next { s with hostq := rest, data := v }) ∧
      (off = 0x18 → step s = .next { s with hostq := rest, bufAddr := v }) ∧
      (0x1C ≤ off → step s = .next { s with hostq := rest }))

/-- The access rule of the window (R33): an 8- or 16-bit access, or one at an offset that is no multiple of 4, raises
REG_ACCESS; the write writes nothing and the read returns 0. -/
def Obligations.RegAccessRule : Prop :=
  ∀ (s : State) (addr : Word) (width : Width) (off : Nat) (rest : List HostAction), s.params.inDomain = true →
    windowOffset s.params addr = some off → (width ≠ .w32 ∨ off % 4 ≠ 0) → s.status.fault = false →
    (∀ v, s.hostq = .store addr width v :: rest → ∃ t, step s = .next t ∧ t.faultCode = .regAccess ∧
      t.status.fault = true ∧ t.config = s.config ∧ t.cmdIdx = s.cmdIdx ∧ t.cmdArg = s.cmdArg ∧ t.data = s.data ∧
      t.bufAddr = s.bufAddr ∧ t.lat = s.lat ∧ t.mem = s.mem) ∧
    (s.hostq = .load addr width :: rest → ∃ t, step s = .next t ∧ t.faultCode = .regAccess ∧ t.status.fault = true ∧
      t.rdata = 0 ∧ t.mem = s.mem)

/-- The interrupt output (R54, R325): `irq = IE & (DONE | FAULT)`. It falls at the launch of every operation that passes
its checks, where an immediate one has finished within the launch; at a W1C of DONE and at a write of IE = 0 unless a
fault is recorded. A finish and a fault leave it equal to IE. After a fault no register write and no step but a reset
changes it, and a reset lowers it. -/
def Obligations.InterruptOutput : Prop :=
  (∀ s : State, s.irq = true ↔ s.config.ie = true ∧ (s.status.done = true ∨ s.status.fault = true)) ∧
  (∀ (s : State) (v : Word), v.getLsbD 1 = true → s.status.fault = false → (regWrite 0x04 v s).irq = false) ∧
  (∀ (s : State) (v : Word), v.getLsbD 0 = false → s.status.fault = false → (regWrite 0x08 v s).irq = false) ∧
  (∀ (s t : State), s.Inv → s.cont ≠ .idle → engineStep s = .next t → t.cont = .idle → t.irq = s.config.ie) ∧
  (∀ (i : Instr) (s : State), s.accepting → (opCode i).isSome = true → launchOk i s →
    ∃ t, exec i s = .next t ∧ t.irq = if isMultiStep i then false else s.config.ie) ∧
  (∀ (code : FaultCode) (s : State), s.status.fault = false → (raiseFault code s).irq = s.config.ie) ∧
  (∀ (off : Nat) (v : Word) (s : State), s.status.fault = true → (regWrite off v s).irq = s.irq) ∧
  (∀ s t : State, s.Inv → s.status.fault = true → step s = .next t → s.hostq.head? ≠ some .reset → t.irq = s.irq) ∧
  (∀ s : State, (resetBlock s).irq = false)

/-- The buffer race (R90, R91, R323): while XFER = 1 a Host store to a byte of the owned buffer stops the run with
BufferRace, and so does a Host load of one during READ_BLOCK; a load during WRITE_BLOCK does not. That the run stops
there is the model's choice (log 13). -/
def Obligations.BufferRace : Prop :=
  ∀ (s : State) (addr : Word) (width : Width) (rest : List HostAction) (j : Nat), s.params.inDomain = true →
    windowOffset s.params addr = none → s.status.xfer = true → j < width.bytes →
    s.lat.buf.toNat ≤ addr.toNat + j → addr.toNat + j ≤ s.lat.buf.toNat + 511 →
    (∀ v, s.hostq = .store addr width v :: rest → step s = .fault .bufferRace) ∧
    (s.hostq = .load addr width :: rest → s.lat.op = 0x0E → step s = .fault .bufferRace) ∧
    (s.hostq = .load addr width :: rest → s.lat.op = 0x0F → memAdmits s.params addr.toNat width.bytes = true →
      ∃ t, step s = .next t)

/-- Host accesses to system memory (R81, R91, R92, R94): a store that touches no byte the Engine owns and is admitted
stores its bytes, least significant first, and changes no other byte and nothing of the block; a load that does so, or
that reads a buffer WRITE_BLOCK owns, returns the bytes in the same order, where a byte the Engine wrote that no barrier
has ordered is any byte. A barrier orders the Host's stores, and what the Engine wrote in every transfer whose end the
Host has seen; after a read of STATUS with DONE = 1 or XFER = 0 a barrier leaves nothing unordered. The tracking of
barriers and the checks of an access are the model's choices (log 12, 14, 15). -/
def Obligations.HostMemory : Prop :=
  (∀ (s : State) (addr : Word) (width : Width) (rest : List HostAction), s.params.inDomain = true →
    s.mem.wf = true → windowOffset s.params addr = none → memAdmits s.params addr.toNat width.bytes = true →
    (∀ v, s.hostq = .store addr width v :: rest → (s.status.xfer = true → s.outsideBuffer addr.toNat width.bytes) →
      ∃ t, step s = .next t ∧
        (∀ j, j < width.bytes → t.mem.read (addr.toNat + j) = v.extractLsb' (8 * j) 8) ∧
        (∀ a, (a < addr.toNat ∨ addr.toNat + width.bytes ≤ a) → t.mem.read a = s.mem.read a) ∧
        (∀ a, (a ∈ t.hostStores ↔ a ∈ s.hostStores ∨ addr.toNat ≤ a ∧ a < addr.toNat + width.bytes) ∧
          (a ∈ t.engStores ↔ a ∈ s.engStores ∧ ¬(addr.toNat ≤ a ∧ a < addr.toNat + width.bytes))) ∧
        t = { s with hostq := rest, mem := t.mem, hostStores := t.hostStores, engStores := t.engStores }) ∧
    (s.hostq = .load addr width :: rest →
      (s.status.xfer = true → s.outsideBuffer addr.toNat width.bytes ∨ s.lat.op ≠ 0x0E) →
      ∃ t, step s = .next t ∧
        (∀ j, j < width.bytes → addr.toNat + j ∉ s.engStores →
          t.rdata.extractLsb' (8 * j) 8 = s.mem.read (addr.toNat + j)) ∧
        (∀ j, width.bytes ≤ j → t.rdata.extractLsb' (8 * j) 8 = 0) ∧
        t = { s with hostq := rest, rdata := t.rdata, draws := t.draws } ∧
        ((∀ j, j < width.bytes → addr.toNat + j ∉ s.engStores) → t.draws = s.draws))) ∧
  (∀ (s : State) (rest : List HostAction), s.params.inDomain = true → s.hostq = .dmb :: rest →
    ∃ t, step s = .next t ∧ t.hostStores = [] ∧
      (∀ a, a ∈ t.engStores ↔ a ∈ s.engStores ∧ a ∉ s.seenStores) ∧
      t = { s with hostq := rest, hostStores := [], engStores := t.engStores, seenStores := [] }) ∧
  (∀ (s : State) (addr : Word) (rest : List HostAction), s.params.inDomain = true →
    s.hostq = .load addr .w32 :: .dmb :: rest → windowOffset s.params addr = some 0x04 →
    s.status.done = true ∨ s.status.xfer = false →
    ∃ t u, step s = .next t ∧ step t = .next u ∧ u.engStores = [] ∧ u.hostStores = [] ∧ u.mem = s.mem)
end

