-- ==== Sys2Proof/Laws/Cont.lean ====
section
/-! SUPPORT. Where the sequencer stands: the functions of the program point that the invariant is stated in, one lemma
per function and point. -/
namespace Sys2Proof.Laws
open Sys2Proof.Machine

@[simp] theorem ownsBuffer_idle : (Cont.idle).ownsBuffer = false := rfl
@[simp] theorem movesWords_idle : (Cont.idle).movesWords = false := rfl
@[simp] theorem runsInit_idle : (Cont.idle).runsInit = false := rfl
@[simp] theorem stage_idle : (Cont.idle).stage? = none := rfl
@[simp] theorem clock_idle : (Cont.idle).clock? = none := rfl
@[simp] theorem needsCs_idle : (Cont.idle).needsCs = false := rfl
@[simp] theorem inBounds_idle (q : Params) : (Cont.idle).inBounds q = true := rfl
@[simp] theorem started_idle : (Cont.idle).started? = none := rfl
@[simp] theorem ownsBuffer_idleClocks (n : Nat) : (Cont.idleClocks n).ownsBuffer = false := rfl
@[simp] theorem movesWords_idleClocks (n : Nat) : (Cont.idleClocks n).movesWords = false := rfl
@[simp] theorem runsInit_idleClocks (n : Nat) : (Cont.idleClocks n).runsInit = false := rfl
@[simp] theorem stage_idleClocks (n : Nat) : (Cont.idleClocks n).stage? = none := rfl
@[simp] theorem clock_idleClocks (n : Nat) : (Cont.idleClocks n).clock? = none := rfl
@[simp] theorem needsCs_idleClocks (n : Nat) : (Cont.idleClocks n).needsCs = false := rfl
@[simp] theorem inBounds_idleClocks (n : Nat) (q : Params) : (Cont.idleClocks n).inBounds q = true := rfl
@[simp] theorem started_idleClocks (n : Nat) : (Cont.idleClocks n).started? = none := rfl
@[simp] theorem ownsBuffer_xferByte : (Cont.xferByte).ownsBuffer = false := rfl
@[simp] theorem movesWords_xferByte : (Cont.xferByte).movesWords = false := rfl
@[simp] theorem runsInit_xferByte : (Cont.xferByte).runsInit = false := rfl
@[simp] theorem stage_xferByte : (Cont.xferByte).stage? = none := rfl
@[simp] theorem clock_xferByte : (Cont.xferByte).clock? = none := rfl
@[simp] theorem needsCs_xferByte : (Cont.xferByte).needsCs = false := rfl
@[simp] theorem inBounds_xferByte (q : Params) : (Cont.xferByte).inBounds q = true := rfl
@[simp] theorem started_xferByte : (Cont.xferByte).started? = none := rfl
@[simp] theorem ownsBuffer_xferWord (k : Fin 4) (g : Word) : (Cont.xferWord k g).ownsBuffer = false := rfl
@[simp] theorem movesWords_xferWord (k : Fin 4) (g : Word) : (Cont.xferWord k g).movesWords = true := rfl
@[simp] theorem runsInit_xferWord (k : Fin 4) (g : Word) : (Cont.xferWord k g).runsInit = false := rfl
@[simp] theorem stage_xferWord (k : Fin 4) (g : Word) : (Cont.xferWord k g).stage? = none := rfl
@[simp] theorem clock_xferWord (k : Fin 4) (g : Word) : (Cont.xferWord k g).clock? = none := rfl
@[simp] theorem needsCs_xferWord (k : Fin 4) (g : Word) : (Cont.xferWord k g).needsCs = false := rfl
@[simp] theorem inBounds_xferWord (k : Fin 4) (g : Word) (q : Params) : (Cont.xferWord k g).inBounds q = true := rfl
@[simp] theorem started_xferWord (k : Fin 4) (g : Word) : (Cont.xferWord k g).started? = none := rfl
@[simp] theorem ownsBuffer_frame (c : Caller) (k : Fin 6) : (Cont.frame c k).ownsBuffer = false := rfl
@[simp] theorem movesWords_frame (c : Caller) (k : Fin 6) : (Cont.frame c k).movesWords = false := rfl
@[simp] theorem runsInit_frame (c : Caller) (k : Fin 6) : (Cont.frame c k).runsInit = c.isInit := rfl
@[simp] theorem stage_frame (c : Caller) (k : Fin 6) : (Cont.frame c k).stage? = c.stage? := rfl
@[simp] theorem clock_frame (c : Caller) (k : Fin 6) : (Cont.frame c k).clock? = c.clock? := rfl
@[simp] theorem inBounds_frame (c : Caller) (k : Fin 6) (q : Params) : (Cont.frame c k).inBounds q = true := rfl
@[simp] theorem needsCs_frame_zero (c : Caller) : (Cont.frame c 0).needsCs = false := rfl
@[simp] theorem started_frame_zero (c : Caller) : (Cont.frame c 0).started? = none := rfl
@[simp] theorem needsCs_frame_succ (c : Caller) (k : Fin 5) : (Cont.frame c k.succ).needsCs = true := rfl
@[simp] theorem started_frame_succ (c : Caller) (k : Fin 5) : (Cont.frame c k.succ).started? = some c := rfl
@[simp] theorem needsCs_frame_mk (c : Caller) (k : Nat) (h : k + 1 < 6) : (Cont.frame c ⟨k + 1, h⟩).needsCs = true := rfl
@[simp] theorem started_frame_mk (c : Caller) (k : Nat) (h : k + 1 < 6) : (Cont.frame c ⟨k + 1, h⟩).started? = some c := rfl
@[simp] theorem ownsBuffer_stuff (c : Caller) : (Cont.stuff c).ownsBuffer = false := rfl
@[simp] theorem movesWords_stuff (c : Caller) : (Cont.stuff c).movesWords = false := rfl
@[simp] theorem runsInit_stuff (c : Caller) : (Cont.stuff c).runsInit = c.isInit := rfl
@[simp] theorem stage_stuff (c : Caller) : (Cont.stuff c).stage? = c.stage? := rfl
@[simp] theorem clock_stuff (c : Caller) : (Cont.stuff c).clock? = c.clock? := rfl
@[simp] theorem needsCs_stuff (c : Caller) : (Cont.stuff c).needsCs = true := rfl
@[simp] theorem inBounds_stuff (c : Caller) (q : Params) : (Cont.stuff c).inBounds q = true := rfl
@[simp] theorem started_stuff (c : Caller) : (Cont.stuff c).started? = some c := rfl
@[simp] theorem ownsBuffer_r1Poll (c : Caller) (k : Nat) : (Cont.r1Poll c k).ownsBuffer = false := rfl
@[simp] theorem movesWords_r1Poll (c : Caller) (k : Nat) : (Cont.r1Poll c k).movesWords = false := rfl
@[simp] theorem runsInit_r1Poll (c : Caller) (k : Nat) : (Cont.r1Poll c k).runsInit = c.isInit := rfl
@[simp] theorem stage_r1Poll (c : Caller) (k : Nat) : (Cont.r1Poll c k).stage? = c.stage? := rfl
@[simp] theorem clock_r1Poll (c : Caller) (k : Nat) : (Cont.r1Poll c k).clock? = c.clock? := rfl
@[simp] theorem needsCs_r1Poll (c : Caller) (k : Nat) : (Cont.r1Poll c k).needsCs = true := rfl
@[simp] theorem inBounds_r1Poll (c : Caller) (k : Nat) (q : Params) : (Cont.r1Poll c k).inBounds q = decide (k < q.ncrLimit) := rfl
@[simp] theorem started_r1Poll (c : Caller) (k : Nat) : (Cont.r1Poll c k).started? = some c := rfl
@[simp] theorem ownsBuffer_trailing (c : Caller) (r : Byte) (k : Fin 4) (g : Word) : (Cont.trailing c r k g).ownsBuffer = false := rfl
@[simp] theorem movesWords_trailing (c : Caller) (r : Byte) (k : Fin 4) (g : Word) : (Cont.trailing c r k g).movesWords = false := rfl
@[simp] theorem runsInit_trailing (c : Caller) (r : Byte) (k : Fin 4) (g : Word) : (Cont.trailing c r k g).runsInit = c.isInit := rfl
@[simp] theorem stage_trailing (c : Caller) (r : Byte) (k : Fin 4) (g : Word) : (Cont.trailing c r k g).stage? = c.stage? := rfl
@[simp] theorem clock_trailing (c : Caller) (r : Byte) (k : Fin 4) (g : Word) : (Cont.trailing c r k g).clock? = c.clock? := rfl
@[simp] theorem needsCs_trailing (c : Caller) (r : Byte) (k : Fin 4) (g : Word) : (Cont.trailing c r k g).needsCs = true := rfl
@[simp] theorem inBounds_trailing (c : Caller) (r : Byte) (k : Fin 4) (g : Word) (q : Params) : (Cont.trailing c r k g).inBounds q = true := rfl
@[simp] theorem started_trailing (c : Caller) (r : Byte) (k : Fin 4) (g : Word) : (Cont.trailing c r k g).started? = some c := rfl
@[simp] theorem ownsBuffer_initTrail (m : InitCmd) (st : TxnStatus) (r : Byte) (tl : Option Word) (p : Pending) : (Cont.initTrail m st r tl p).ownsBuffer = false := rfl
@[simp] theorem movesWords_initTrail (m : InitCmd) (st : TxnStatus) (r : Byte) (tl : Option Word) (p : Pending) : (Cont.initTrail m st r tl p).movesWords = false := rfl
@[simp] theorem runsInit_initTrail (m : InitCmd) (st : TxnStatus) (r : Byte) (tl : Option Word) (p : Pending) : (Cont.initTrail m st r tl p).runsInit = true := rfl
@[simp] theorem stage_initTrail (m : InitCmd) (st : TxnStatus) (r : Byte) (tl : Option Word) (p : Pending) : (Cont.initTrail m st r tl p).stage? = some m.stage := rfl
@[simp] theorem clock_initTrail (m : InitCmd) (st : TxnStatus) (r : Byte) (tl : Option Word) (p : Pending) : (Cont.initTrail m st r tl p).clock? = some m.fastClock := rfl
@[simp] theorem needsCs_initTrail (m : InitCmd) (st : TxnStatus) (r : Byte) (tl : Option Word) (p : Pending) : (Cont.initTrail m st r tl p).needsCs = true := rfl
@[simp] theorem inBounds_initTrail (m : InitCmd) (st : TxnStatus) (r : Byte) (tl : Option Word) (p : Pending) (q : Params) : (Cont.initTrail m st r tl p).inBounds q = true := rfl
@[simp] theorem started_initTrail (m : InitCmd) (st : TxnStatus) (r : Byte) (tl : Option Word) (p : Pending) : (Cont.initTrail m st r tl p).started? = some (.init m p) := rfl
@[simp] theorem ownsBuffer_tokenWait (k : Nat) : (Cont.tokenWait k).ownsBuffer = true := rfl
@[simp] theorem movesWords_tokenWait (k : Nat) : (Cont.tokenWait k).movesWords = false := rfl
@[simp] theorem runsInit_tokenWait (k : Nat) : (Cont.tokenWait k).runsInit = false := rfl
@[simp] theorem stage_tokenWait (k : Nat) : (Cont.tokenWait k).stage? = none := rfl
@[simp] theorem clock_tokenWait (k : Nat) : (Cont.tokenWait k).clock? = none := rfl
@[simp] theorem needsCs_tokenWait (k : Nat) : (Cont.tokenWait k).needsCs = true := rfl
@[simp] theorem inBounds_tokenWait (k : Nat) (q : Params) : (Cont.tokenWait k).inBounds q = decide (k < q.tokenPollLimit) := rfl
@[simp] theorem started_tokenWait (k : Nat) : (Cont.tokenWait k).started? = none := rfl
@[simp] theorem ownsBuffer_readData (i : Fin 512) : (Cont.readData i).ownsBuffer = true := rfl
@[simp] theorem movesWords_readData (i : Fin 512) : (Cont.readData i).movesWords = true := rfl
@[simp] theorem runsInit_readData (i : Fin 512) : (Cont.readData i).runsInit = false := rfl
@[simp] theorem stage_readData (i : Fin 512) : (Cont.readData i).stage? = none := rfl
@[simp] theorem clock_readData (i : Fin 512) : (Cont.readData i).clock? = none := rfl
@[simp] theorem needsCs_readData (i : Fin 512) : (Cont.readData i).needsCs = true := rfl
@[simp] theorem inBounds_readData (i : Fin 512) (q : Params) : (Cont.readData i).inBounds q = true := rfl
@[simp] theorem started_readData (i : Fin 512) : (Cont.readData i).started? = none := rfl
@[simp] theorem ownsBuffer_readCrcHi : (Cont.readCrcHi).ownsBuffer = false := rfl
@[simp] theorem movesWords_readCrcHi : (Cont.readCrcHi).movesWords = false := rfl
@[simp] theorem runsInit_readCrcHi : (Cont.readCrcHi).runsInit = false := rfl
@[simp] theorem stage_readCrcHi : (Cont.readCrcHi).stage? = none := rfl
@[simp] theorem clock_readCrcHi : (Cont.readCrcHi).clock? = none := rfl
@[simp] theorem needsCs_readCrcHi : (Cont.readCrcHi).needsCs = true := rfl
@[simp] theorem inBounds_readCrcHi (q : Params) : (Cont.readCrcHi).inBounds q = true := rfl
@[simp] theorem started_readCrcHi : (Cont.readCrcHi).started? = none := rfl
@[simp] theorem ownsBuffer_readCrcLo (h : Byte) : (Cont.readCrcLo h).ownsBuffer = false := rfl
@[simp] theorem movesWords_readCrcLo (h : Byte) : (Cont.readCrcLo h).movesWords = false := rfl
@[simp] theorem runsInit_readCrcLo (h : Byte) : (Cont.readCrcLo h).runsInit = false := rfl
@[simp] theorem stage_readCrcLo (h : Byte) : (Cont.readCrcLo h).stage? = none := rfl
@[simp] theorem clock_readCrcLo (h : Byte) : (Cont.readCrcLo h).clock? = none := rfl
@[simp] theorem needsCs_readCrcLo (h : Byte) : (Cont.readCrcLo h).needsCs = true := rfl
@[simp] theorem inBounds_readCrcLo (h : Byte) (q : Params) : (Cont.readCrcLo h).inBounds q = true := rfl
@[simp] theorem started_readCrcLo (h : Byte) : (Cont.readCrcLo h).started? = none := rfl
@[simp] theorem ownsBuffer_writeToken : (Cont.writeToken).ownsBuffer = true := rfl
@[simp] theorem movesWords_writeToken : (Cont.writeToken).movesWords = false := rfl
@[simp] theorem runsInit_writeToken : (Cont.writeToken).runsInit = false := rfl
@[simp] theorem stage_writeToken : (Cont.writeToken).stage? = none := rfl
@[simp] theorem clock_writeToken : (Cont.writeToken).clock? = none := rfl
@[simp] theorem needsCs_writeToken : (Cont.writeToken).needsCs = true := rfl
@[simp] theorem inBounds_writeToken (q : Params) : (Cont.writeToken).inBounds q = true := rfl
@[simp] theorem started_writeToken : (Cont.writeToken).started? = none := rfl
@[simp] theorem ownsBuffer_writeData (i : Fin 512) : (Cont.writeData i).ownsBuffer = true := rfl
@[simp] theorem movesWords_writeData (i : Fin 512) : (Cont.writeData i).movesWords = true := rfl
@[simp] theorem runsInit_writeData (i : Fin 512) : (Cont.writeData i).runsInit = false := rfl
@[simp] theorem stage_writeData (i : Fin 512) : (Cont.writeData i).stage? = none := rfl
@[simp] theorem clock_writeData (i : Fin 512) : (Cont.writeData i).clock? = none := rfl
@[simp] theorem needsCs_writeData (i : Fin 512) : (Cont.writeData i).needsCs = true := rfl
@[simp] theorem inBounds_writeData (i : Fin 512) (q : Params) : (Cont.writeData i).inBounds q = true := rfl
@[simp] theorem started_writeData (i : Fin 512) : (Cont.writeData i).started? = none := rfl
@[simp] theorem ownsBuffer_writeCrcHi : (Cont.writeCrcHi).ownsBuffer = false := rfl
@[simp] theorem movesWords_writeCrcHi : (Cont.writeCrcHi).movesWords = false := rfl
@[simp] theorem runsInit_writeCrcHi : (Cont.writeCrcHi).runsInit = false := rfl
@[simp] theorem stage_writeCrcHi : (Cont.writeCrcHi).stage? = none := rfl
@[simp] theorem clock_writeCrcHi : (Cont.writeCrcHi).clock? = none := rfl
@[simp] theorem needsCs_writeCrcHi : (Cont.writeCrcHi).needsCs = true := rfl
@[simp] theorem inBounds_writeCrcHi (q : Params) : (Cont.writeCrcHi).inBounds q = true := rfl
@[simp] theorem started_writeCrcHi : (Cont.writeCrcHi).started? = none := rfl
@[simp] theorem ownsBuffer_writeCrcLo : (Cont.writeCrcLo).ownsBuffer = false := rfl
@[simp] theorem movesWords_writeCrcLo : (Cont.writeCrcLo).movesWords = false := rfl
@[simp] theorem runsInit_writeCrcLo : (Cont.writeCrcLo).runsInit = false := rfl
@[simp] theorem stage_writeCrcLo : (Cont.writeCrcLo).stage? = none := rfl
@[simp] theorem clock_writeCrcLo : (Cont.writeCrcLo).clock? = none := rfl
@[simp] theorem needsCs_writeCrcLo : (Cont.writeCrcLo).needsCs = true := rfl
@[simp] theorem inBounds_writeCrcLo (q : Params) : (Cont.writeCrcLo).inBounds q = true := rfl
@[simp] theorem started_writeCrcLo : (Cont.writeCrcLo).started? = none := rfl
@[simp] theorem ownsBuffer_writeResp (k : Nat) : (Cont.writeResp k).ownsBuffer = false := rfl
@[simp] theorem movesWords_writeResp (k : Nat) : (Cont.writeResp k).movesWords = false := rfl
@[simp] theorem runsInit_writeResp (k : Nat) : (Cont.writeResp k).runsInit = false := rfl
@[simp] theorem stage_writeResp (k : Nat) : (Cont.writeResp k).stage? = none := rfl
@[simp] theorem clock_writeResp (k : Nat) : (Cont.writeResp k).clock? = none := rfl
@[simp] theorem needsCs_writeResp (k : Nat) : (Cont.writeResp k).needsCs = true := rfl
@[simp] theorem inBounds_writeResp (k : Nat) (q : Params) : (Cont.writeResp k).inBounds q = decide (k < q.drespLimit) := rfl
@[simp] theorem started_writeResp (k : Nat) : (Cont.writeResp k).started? = none := rfl
@[simp] theorem ownsBuffer_stopToken : (Cont.stopToken).ownsBuffer = false := rfl
@[simp] theorem movesWords_stopToken : (Cont.stopToken).movesWords = false := rfl
@[simp] theorem runsInit_stopToken : (Cont.stopToken).runsInit = false := rfl
@[simp] theorem stage_stopToken : (Cont.stopToken).stage? = none := rfl
@[simp] theorem clock_stopToken : (Cont.stopToken).clock? = none := rfl
@[simp] theorem needsCs_stopToken : (Cont.stopToken).needsCs = true := rfl
@[simp] theorem inBounds_stopToken (q : Params) : (Cont.stopToken).inBounds q = true := rfl
@[simp] theorem started_stopToken : (Cont.stopToken).started? = none := rfl
@[simp] theorem ownsBuffer_stopGap : (Cont.stopGap).ownsBuffer = false := rfl
@[simp] theorem movesWords_stopGap : (Cont.stopGap).movesWords = false := rfl
@[simp] theorem runsInit_stopGap : (Cont.stopGap).runsInit = false := rfl
@[simp] theorem stage_stopGap : (Cont.stopGap).stage? = none := rfl
@[simp] theorem clock_stopGap : (Cont.stopGap).clock? = none := rfl
@[simp] theorem needsCs_stopGap : (Cont.stopGap).needsCs = true := rfl
@[simp] theorem inBounds_stopGap (q : Params) : (Cont.stopGap).inBounds q = true := rfl
@[simp] theorem started_stopGap : (Cont.stopGap).started? = none := rfl
@[simp] theorem ownsBuffer_busy (u : BusyUser) (k : Nat) : (Cont.busy u k).ownsBuffer = false := by cases u <;> rfl
@[simp] theorem movesWords_busy (u : BusyUser) (k : Nat) : (Cont.busy u k).movesWords = false := by cases u <;> rfl
@[simp] theorem needsCs_busy (u : BusyUser) (k : Nat) : (Cont.busy u k).needsCs = true := by cases u <;> rfl
@[simp] theorem inBounds_busy (u : BusyUser) (k : Nat) (q : Params) : (Cont.busy u k).inBounds q = decide (k < busyBound q) := rfl
@[simp] theorem runsInit_busy_txn (c : Caller) (r : Byte) (k : Nat) : (Cont.busy (.txn c r) k).runsInit = c.isInit := rfl
@[simp] theorem stage_busy_txn (c : Caller) (r : Byte) (k : Nat) : (Cont.busy (.txn c r) k).stage? = c.stage? := rfl
@[simp] theorem clock_busy_txn (c : Caller) (r : Byte) (k : Nat) : (Cont.busy (.txn c r) k).clock? = c.clock? := rfl
@[simp] theorem started_busy_txn (c : Caller) (r : Byte) (k : Nat) : (Cont.busy (.txn c r) k).started? = some c := rfl
@[simp] theorem runsInit_busy_writeBlock (k : Nat) : (Cont.busy .writeBlock k).runsInit = false := rfl
@[simp] theorem stage_busy_writeBlock (k : Nat) : (Cont.busy .writeBlock k).stage? = none := rfl
@[simp] theorem clock_busy_writeBlock (k : Nat) : (Cont.busy .writeBlock k).clock? = none := rfl
@[simp] theorem started_busy_writeBlock (k : Nat) : (Cont.busy .writeBlock k).started? = none := rfl
@[simp] theorem runsInit_busy_stopTran (k : Nat) : (Cont.busy .stopTran k).runsInit = false := rfl
@[simp] theorem stage_busy_stopTran (k : Nat) : (Cont.busy .stopTran k).stage? = none := rfl
@[simp] theorem clock_busy_stopTran (k : Nat) : (Cont.busy .stopTran k).clock? = none := rfl
@[simp] theorem started_busy_stopTran (k : Nat) : (Cont.busy .stopTran k).started? = none := rfl
@[simp] theorem runsInit_busy_busyWait (k : Nat) : (Cont.busy .busyWait k).runsInit = false := rfl
@[simp] theorem stage_busy_busyWait (k : Nat) : (Cont.busy .busyWait k).stage? = none := rfl
@[simp] theorem clock_busy_busyWait (k : Nat) : (Cont.busy .busyWait k).clock? = none := rfl
@[simp] theorem started_busy_busyWait (k : Nat) : (Cont.busy .busyWait k).started? = none := rfl
@[simp] theorem ownsBuffer_initClocks (k : Nat) : (Cont.initClocks k).ownsBuffer = false := by cases k <;> rfl
@[simp] theorem movesWords_initClocks (k : Nat) : (Cont.initClocks k).movesWords = false := by cases k <;> rfl
@[simp] theorem runsInit_initClocks (k : Nat) : (Cont.initClocks k).runsInit = true := by cases k <;> rfl
@[simp] theorem needsCs_initClocks (k : Nat) : (Cont.initClocks k).needsCs = false := by cases k <;> rfl
@[simp] theorem inBounds_initClocks (k : Nat) (q : Params) : (Cont.initClocks k).inBounds q = decide (k < q.idleClockBytes) := rfl
@[simp] theorem started_initClocks (k : Nat) : (Cont.initClocks k).started? = none := by cases k <;> rfl
@[simp] theorem stage_initClocks_zero : (Cont.initClocks 0).stage? = none := rfl
@[simp] theorem clock_initClocks_zero : (Cont.initClocks 0).clock? = none := rfl
@[simp] theorem stage_initClocks_succ (k : Nat) : (Cont.initClocks (k + 1)).stage? = some .uninitialized := rfl
@[simp] theorem clock_initClocks_succ (k : Nat) : (Cont.initClocks (k + 1)).clock? = some false := rfl
@[simp] theorem ownsBuffer_speedUp (p : Pending) : (Cont.speedUp p).ownsBuffer = false := rfl
@[simp] theorem movesWords_speedUp (p : Pending) : (Cont.speedUp p).movesWords = false := rfl
@[simp] theorem runsInit_speedUp (p : Pending) : (Cont.speedUp p).runsInit = true := rfl
@[simp] theorem stage_speedUp (p : Pending) : (Cont.speedUp p).stage? = some .voltageNegotiated := rfl
@[simp] theorem clock_speedUp (p : Pending) : (Cont.speedUp p).clock? = some false := rfl
@[simp] theorem needsCs_speedUp (p : Pending) : (Cont.speedUp p).needsCs = false := rfl
@[simp] theorem inBounds_speedUp (p : Pending) (q : Params) : (Cont.speedUp p).inBounds q = true := rfl
@[simp] theorem started_speedUp (p : Pending) : (Cont.speedUp p).started? = none := rfl

end Sys2Proof.Laws
end

