-- ==== Sys2Proof/Laws/State.lean ====
section
/-! SUPPORT. What each update of the state leaves alone: one lemma per field per update. -/
namespace Sys2Proof.Laws
open Sys2Proof.Machine

@[simp] theorem setCs_lat (b : Bool) (s : State) : (setCs b s).lat = s.lat := by unfold setCs; split <;> rfl
@[simp] theorem setCs_status (b : Bool) (s : State) : (setCs b s).status = s.status := by unfold setCs; split <;> rfl
@[simp] theorem setCs_config (b : Bool) (s : State) : (setCs b s).config = s.config := by unfold setCs; split <;> rfl
@[simp] theorem setCs_cmdIdx (b : Bool) (s : State) : (setCs b s).cmdIdx = s.cmdIdx := by unfold setCs; split <;> rfl
@[simp] theorem setCs_cmdArg (b : Bool) (s : State) : (setCs b s).cmdArg = s.cmdArg := by unfold setCs; split <;> rfl
@[simp] theorem setCs_data (b : Bool) (s : State) : (setCs b s).data = s.data := by unfold setCs; split <;> rfl
@[simp] theorem setCs_bufAddr (b : Bool) (s : State) : (setCs b s).bufAddr = s.bufAddr := by unfold setCs; split <;> rfl
@[simp] theorem setCs_resp0 (b : Bool) (s : State) : (setCs b s).resp0 = s.resp0 := by unfold setCs; split <;> rfl
@[simp] theorem setCs_resp1 (b : Bool) (s : State) : (setCs b s).resp1 = s.resp1 := by unfold setCs; split <;> rfl
@[simp] theorem setCs_dresp (b : Bool) (s : State) : (setCs b s).dresp = s.dresp := by unfold setCs; split <;> rfl
@[simp] theorem setCs_crc7 (b : Bool) (s : State) : (setCs b s).crc7 = s.crc7 := by unfold setCs; split <;> rfl
@[simp] theorem setCs_crc16 (b : Bool) (s : State) : (setCs b s).crc16 = s.crc16 := by unfold setCs; split <;> rfl
@[simp] theorem setCs_faultCode (b : Bool) (s : State) : (setCs b s).faultCode = s.faultCode := by unfold setCs; split <;> rfl
@[simp] theorem setCs_cont (b : Bool) (s : State) : (setCs b s).cont = s.cont := by unfold setCs; split <;> rfl
@[simp] theorem setCs_init (b : Bool) (s : State) : (setCs b s).init = s.init := by unfold setCs; split <;> rfl
@[simp] theorem setCs_mem (b : Bool) (s : State) : (setCs b s).mem = s.mem := by unfold setCs; split <;> rfl
@[simp] theorem setCs_params (b : Bool) (s : State) : (setCs b s).params = s.params := by unfold setCs; split <;> rfl
@[simp] theorem setCs_hostq (b : Bool) (s : State) : (setCs b s).hostq = s.hostq := by unfold setCs; split <;> rfl
@[simp] theorem setCs_rdata (b : Bool) (s : State) : (setCs b s).rdata = s.rdata := by unfold setCs; split <;> rfl
@[simp] theorem setCs_card (b : Bool) (s : State) : (setCs b s).card = s.card := by unfold setCs; split <;> rfl
@[simp] theorem setCs_draws (b : Bool) (s : State) : (setCs b s).draws = s.draws := by unfold setCs; split <;> rfl
@[simp] theorem setCs_hostStores (b : Bool) (s : State) : (setCs b s).hostStores = s.hostStores := by unfold setCs; split <;> rfl
@[simp] theorem setCs_unordered (b : Bool) (s : State) : (setCs b s).unordered = s.unordered := by unfold setCs; split <;> rfl
@[simp] theorem setCs_engStores (b : Bool) (s : State) : (setCs b s).engStores = s.engStores := by unfold setCs; split <;> rfl
@[simp] theorem setCs_seenStores (b : Bool) (s : State) : (setCs b s).seenStores = s.seenStores := by unfold setCs; split <;> rfl

@[simp] theorem resetBus_lat (b : Bool) (s : State) : (resetBus b s).lat = s.lat := by simp [resetBus]
@[simp] theorem resetBus_status (b : Bool) (s : State) : (resetBus b s).status = s.status := by simp [resetBus]
@[simp] theorem resetBus_config (b : Bool) (s : State) : (resetBus b s).config = s.config := by simp [resetBus]
@[simp] theorem resetBus_cmdIdx (b : Bool) (s : State) : (resetBus b s).cmdIdx = s.cmdIdx := by simp [resetBus]
@[simp] theorem resetBus_cmdArg (b : Bool) (s : State) : (resetBus b s).cmdArg = s.cmdArg := by simp [resetBus]
@[simp] theorem resetBus_data (b : Bool) (s : State) : (resetBus b s).data = s.data := by simp [resetBus]
@[simp] theorem resetBus_bufAddr (b : Bool) (s : State) : (resetBus b s).bufAddr = s.bufAddr := by simp [resetBus]
@[simp] theorem resetBus_resp0 (b : Bool) (s : State) : (resetBus b s).resp0 = s.resp0 := by simp [resetBus]
@[simp] theorem resetBus_resp1 (b : Bool) (s : State) : (resetBus b s).resp1 = s.resp1 := by simp [resetBus]
@[simp] theorem resetBus_dresp (b : Bool) (s : State) : (resetBus b s).dresp = s.dresp := by simp [resetBus]
@[simp] theorem resetBus_crc7 (b : Bool) (s : State) : (resetBus b s).crc7 = s.crc7 := by simp [resetBus]
@[simp] theorem resetBus_crc16 (b : Bool) (s : State) : (resetBus b s).crc16 = s.crc16 := by simp [resetBus]
@[simp] theorem resetBus_faultCode (b : Bool) (s : State) : (resetBus b s).faultCode = s.faultCode := by simp [resetBus]
@[simp] theorem resetBus_cont (b : Bool) (s : State) : (resetBus b s).cont = s.cont := by simp [resetBus]
@[simp] theorem resetBus_init (b : Bool) (s : State) : (resetBus b s).init = s.init := by simp [resetBus]
@[simp] theorem resetBus_mem (b : Bool) (s : State) : (resetBus b s).mem = s.mem := by simp [resetBus]
@[simp] theorem resetBus_params (b : Bool) (s : State) : (resetBus b s).params = s.params := by simp [resetBus]
@[simp] theorem resetBus_hostq (b : Bool) (s : State) : (resetBus b s).hostq = s.hostq := by simp [resetBus]
@[simp] theorem resetBus_rdata (b : Bool) (s : State) : (resetBus b s).rdata = s.rdata := by simp [resetBus]
@[simp] theorem resetBus_card (b : Bool) (s : State) : (resetBus b s).card = s.card := by simp [resetBus]
@[simp] theorem resetBus_draws (b : Bool) (s : State) : (resetBus b s).draws = s.draws := by simp [resetBus]
@[simp] theorem resetBus_hostStores (b : Bool) (s : State) : (resetBus b s).hostStores = s.hostStores := by simp [resetBus]
@[simp] theorem resetBus_unordered (b : Bool) (s : State) : (resetBus b s).unordered = s.unordered := by simp [resetBus]
@[simp] theorem resetBus_engStores (b : Bool) (s : State) : (resetBus b s).engStores = s.engStores := by simp [resetBus]
@[simp] theorem resetBus_seenStores (b : Bool) (s : State) : (resetBus b s).seenStores = s.seenStores := by simp [resetBus]

@[simp] theorem exchange_lat (tx : Byte) (s : State) : ((exchange tx s).2).lat = s.lat := by unfold exchange cardAnswer; cases s.card <;> rfl
@[simp] theorem exchange_status (tx : Byte) (s : State) : ((exchange tx s).2).status = s.status := by unfold exchange cardAnswer; cases s.card <;> rfl
@[simp] theorem exchange_config (tx : Byte) (s : State) : ((exchange tx s).2).config = s.config := by unfold exchange cardAnswer; cases s.card <;> rfl
@[simp] theorem exchange_cmdIdx (tx : Byte) (s : State) : ((exchange tx s).2).cmdIdx = s.cmdIdx := by unfold exchange cardAnswer; cases s.card <;> rfl
@[simp] theorem exchange_cmdArg (tx : Byte) (s : State) : ((exchange tx s).2).cmdArg = s.cmdArg := by unfold exchange cardAnswer; cases s.card <;> rfl
@[simp] theorem exchange_data (tx : Byte) (s : State) : ((exchange tx s).2).data = s.data := by unfold exchange cardAnswer; cases s.card <;> rfl
@[simp] theorem exchange_bufAddr (tx : Byte) (s : State) : ((exchange tx s).2).bufAddr = s.bufAddr := by unfold exchange cardAnswer; cases s.card <;> rfl
@[simp] theorem exchange_resp0 (tx : Byte) (s : State) : ((exchange tx s).2).resp0 = s.resp0 := by unfold exchange cardAnswer; cases s.card <;> rfl
@[simp] theorem exchange_resp1 (tx : Byte) (s : State) : ((exchange tx s).2).resp1 = s.resp1 := by unfold exchange cardAnswer; cases s.card <;> rfl
@[simp] theorem exchange_dresp (tx : Byte) (s : State) : ((exchange tx s).2).dresp = s.dresp := by unfold exchange cardAnswer; cases s.card <;> rfl
@[simp] theorem exchange_crc7 (tx : Byte) (s : State) : ((exchange tx s).2).crc7 = s.crc7 := by unfold exchange cardAnswer; cases s.card <;> rfl
@[simp] theorem exchange_crc16 (tx : Byte) (s : State) : ((exchange tx s).2).crc16 = s.crc16 := by unfold exchange cardAnswer; cases s.card <;> rfl
@[simp] theorem exchange_bus (tx : Byte) (s : State) : ((exchange tx s).2).bus = s.bus := by unfold exchange cardAnswer; cases s.card <;> rfl
@[simp] theorem exchange_faultCode (tx : Byte) (s : State) : ((exchange tx s).2).faultCode = s.faultCode := by unfold exchange cardAnswer; cases s.card <;> rfl
@[simp] theorem exchange_cont (tx : Byte) (s : State) : ((exchange tx s).2).cont = s.cont := by unfold exchange cardAnswer; cases s.card <;> rfl
@[simp] theorem exchange_init (tx : Byte) (s : State) : ((exchange tx s).2).init = s.init := by unfold exchange cardAnswer; cases s.card <;> rfl
@[simp] theorem exchange_mem (tx : Byte) (s : State) : ((exchange tx s).2).mem = s.mem := by unfold exchange cardAnswer; cases s.card <;> rfl
@[simp] theorem exchange_params (tx : Byte) (s : State) : ((exchange tx s).2).params = s.params := by unfold exchange cardAnswer; cases s.card <;> rfl
@[simp] theorem exchange_hostq (tx : Byte) (s : State) : ((exchange tx s).2).hostq = s.hostq := by unfold exchange cardAnswer; cases s.card <;> rfl
@[simp] theorem exchange_rdata (tx : Byte) (s : State) : ((exchange tx s).2).rdata = s.rdata := by unfold exchange cardAnswer; cases s.card <;> rfl
@[simp] theorem exchange_hostStores (tx : Byte) (s : State) : ((exchange tx s).2).hostStores = s.hostStores := by unfold exchange cardAnswer; cases s.card <;> rfl
@[simp] theorem exchange_unordered (tx : Byte) (s : State) : ((exchange tx s).2).unordered = s.unordered := by unfold exchange cardAnswer; cases s.card <;> rfl
@[simp] theorem exchange_engStores (tx : Byte) (s : State) : ((exchange tx s).2).engStores = s.engStores := by unfold exchange cardAnswer; cases s.card <;> rfl
@[simp] theorem exchange_seenStores (tx : Byte) (s : State) : ((exchange tx s).2).seenStores = s.seenStores := by unfold exchange cardAnswer; cases s.card <;> rfl

@[simp] theorem finishOk_lat (s : State) : (finishOk s).lat = s.lat := rfl
@[simp] theorem finishOk_config (s : State) : (finishOk s).config = s.config := rfl
@[simp] theorem finishOk_cmdIdx (s : State) : (finishOk s).cmdIdx = s.cmdIdx := rfl
@[simp] theorem finishOk_cmdArg (s : State) : (finishOk s).cmdArg = s.cmdArg := rfl
@[simp] theorem finishOk_data (s : State) : (finishOk s).data = s.data := rfl
@[simp] theorem finishOk_bufAddr (s : State) : (finishOk s).bufAddr = s.bufAddr := rfl
@[simp] theorem finishOk_resp0 (s : State) : (finishOk s).resp0 = s.resp0 := rfl
@[simp] theorem finishOk_resp1 (s : State) : (finishOk s).resp1 = s.resp1 := rfl
@[simp] theorem finishOk_dresp (s : State) : (finishOk s).dresp = s.dresp := rfl
@[simp] theorem finishOk_crc7 (s : State) : (finishOk s).crc7 = s.crc7 := rfl
@[simp] theorem finishOk_crc16 (s : State) : (finishOk s).crc16 = s.crc16 := rfl
@[simp] theorem finishOk_faultCode (s : State) : (finishOk s).faultCode = s.faultCode := rfl
@[simp] theorem finishOk_init (s : State) : (finishOk s).init = s.init := rfl
@[simp] theorem finishOk_wire (s : State) : (finishOk s).wire = s.wire := rfl
@[simp] theorem finishOk_mem (s : State) : (finishOk s).mem = s.mem := rfl
@[simp] theorem finishOk_params (s : State) : (finishOk s).params = s.params := rfl
@[simp] theorem finishOk_hostq (s : State) : (finishOk s).hostq = s.hostq := rfl
@[simp] theorem finishOk_rdata (s : State) : (finishOk s).rdata = s.rdata := rfl
@[simp] theorem finishOk_card (s : State) : (finishOk s).card = s.card := rfl
@[simp] theorem finishOk_draws (s : State) : (finishOk s).draws = s.draws := rfl
@[simp] theorem finishOk_hostStores (s : State) : (finishOk s).hostStores = s.hostStores := rfl
@[simp] theorem finishOk_unordered (s : State) : (finishOk s).unordered = s.unordered := rfl
@[simp] theorem finishOk_engStores (s : State) : (finishOk s).engStores = s.engStores := rfl
@[simp] theorem finishOk_seenStores (s : State) : (finishOk s).seenStores = s.seenStores := rfl

@[simp] theorem finishErr_lat (e : ErrCode) (s : State) : (finishErr e s).lat = s.lat := by simp [finishErr]
@[simp] theorem finishErr_config (e : ErrCode) (s : State) : (finishErr e s).config = s.config := by simp [finishErr]
@[simp] theorem finishErr_cmdIdx (e : ErrCode) (s : State) : (finishErr e s).cmdIdx = s.cmdIdx := by simp [finishErr]
@[simp] theorem finishErr_cmdArg (e : ErrCode) (s : State) : (finishErr e s).cmdArg = s.cmdArg := by simp [finishErr]
@[simp] theorem finishErr_data (e : ErrCode) (s : State) : (finishErr e s).data = s.data := by simp [finishErr]
@[simp] theorem finishErr_bufAddr (e : ErrCode) (s : State) : (finishErr e s).bufAddr = s.bufAddr := by simp [finishErr]
@[simp] theorem finishErr_resp0 (e : ErrCode) (s : State) : (finishErr e s).resp0 = s.resp0 := by simp [finishErr]
@[simp] theorem finishErr_resp1 (e : ErrCode) (s : State) : (finishErr e s).resp1 = s.resp1 := by simp [finishErr]
@[simp] theorem finishErr_dresp (e : ErrCode) (s : State) : (finishErr e s).dresp = s.dresp := by simp [finishErr]
@[simp] theorem finishErr_crc7 (e : ErrCode) (s : State) : (finishErr e s).crc7 = s.crc7 := by simp [finishErr]
@[simp] theorem finishErr_crc16 (e : ErrCode) (s : State) : (finishErr e s).crc16 = s.crc16 := by simp [finishErr]
@[simp] theorem finishErr_faultCode (e : ErrCode) (s : State) : (finishErr e s).faultCode = s.faultCode := by simp [finishErr]
@[simp] theorem finishErr_init (e : ErrCode) (s : State) : (finishErr e s).init = s.init := by simp [finishErr]
@[simp] theorem finishErr_mem (e : ErrCode) (s : State) : (finishErr e s).mem = s.mem := by simp [finishErr]
@[simp] theorem finishErr_params (e : ErrCode) (s : State) : (finishErr e s).params = s.params := by simp [finishErr]
@[simp] theorem finishErr_hostq (e : ErrCode) (s : State) : (finishErr e s).hostq = s.hostq := by simp [finishErr]
@[simp] theorem finishErr_rdata (e : ErrCode) (s : State) : (finishErr e s).rdata = s.rdata := by simp [finishErr]
@[simp] theorem finishErr_card (e : ErrCode) (s : State) : (finishErr e s).card = s.card := by simp [finishErr]
@[simp] theorem finishErr_draws (e : ErrCode) (s : State) : (finishErr e s).draws = s.draws := by simp [finishErr]
@[simp] theorem finishErr_hostStores (e : ErrCode) (s : State) : (finishErr e s).hostStores = s.hostStores := by simp [finishErr]
@[simp] theorem finishErr_unordered (e : ErrCode) (s : State) : (finishErr e s).unordered = s.unordered := by simp [finishErr]
@[simp] theorem finishErr_engStores (e : ErrCode) (s : State) : (finishErr e s).engStores = s.engStores := by simp [finishErr]
@[simp] theorem finishErr_seenStores (e : ErrCode) (s : State) : (finishErr e s).seenStores = s.seenStores := by simp [finishErr]

@[simp] theorem dropRunningCrc_lat (s : State) : (dropRunningCrc s).lat = s.lat := by unfold dropRunningCrc; split <;> rfl
@[simp] theorem dropRunningCrc_status (s : State) : (dropRunningCrc s).status = s.status := by unfold dropRunningCrc; split <;> rfl
@[simp] theorem dropRunningCrc_config (s : State) : (dropRunningCrc s).config = s.config := by unfold dropRunningCrc; split <;> rfl
@[simp] theorem dropRunningCrc_cmdIdx (s : State) : (dropRunningCrc s).cmdIdx = s.cmdIdx := by unfold dropRunningCrc; split <;> rfl
@[simp] theorem dropRunningCrc_cmdArg (s : State) : (dropRunningCrc s).cmdArg = s.cmdArg := by unfold dropRunningCrc; split <;> rfl
@[simp] theorem dropRunningCrc_data (s : State) : (dropRunningCrc s).data = s.data := by unfold dropRunningCrc; split <;> rfl
@[simp] theorem dropRunningCrc_bufAddr (s : State) : (dropRunningCrc s).bufAddr = s.bufAddr := by unfold dropRunningCrc; split <;> rfl
@[simp] theorem dropRunningCrc_resp0 (s : State) : (dropRunningCrc s).resp0 = s.resp0 := by unfold dropRunningCrc; split <;> rfl
@[simp] theorem dropRunningCrc_resp1 (s : State) : (dropRunningCrc s).resp1 = s.resp1 := by unfold dropRunningCrc; split <;> rfl
@[simp] theorem dropRunningCrc_dresp (s : State) : (dropRunningCrc s).dresp = s.dresp := by unfold dropRunningCrc; split <;> rfl
@[simp] theorem dropRunningCrc_bus (s : State) : (dropRunningCrc s).bus = s.bus := by unfold dropRunningCrc; split <;> rfl
@[simp] theorem dropRunningCrc_faultCode (s : State) : (dropRunningCrc s).faultCode = s.faultCode := by unfold dropRunningCrc; split <;> rfl
@[simp] theorem dropRunningCrc_cont (s : State) : (dropRunningCrc s).cont = s.cont := by unfold dropRunningCrc; split <;> rfl
@[simp] theorem dropRunningCrc_init (s : State) : (dropRunningCrc s).init = s.init := by unfold dropRunningCrc; split <;> rfl
@[simp] theorem dropRunningCrc_wire (s : State) : (dropRunningCrc s).wire = s.wire := by unfold dropRunningCrc; split <;> rfl
@[simp] theorem dropRunningCrc_mem (s : State) : (dropRunningCrc s).mem = s.mem := by unfold dropRunningCrc; split <;> rfl
@[simp] theorem dropRunningCrc_params (s : State) : (dropRunningCrc s).params = s.params := by unfold dropRunningCrc; split <;> rfl
@[simp] theorem dropRunningCrc_hostq (s : State) : (dropRunningCrc s).hostq = s.hostq := by unfold dropRunningCrc; split <;> rfl
@[simp] theorem dropRunningCrc_rdata (s : State) : (dropRunningCrc s).rdata = s.rdata := by unfold dropRunningCrc; split <;> rfl
@[simp] theorem dropRunningCrc_card (s : State) : (dropRunningCrc s).card = s.card := by unfold dropRunningCrc; split <;> rfl
@[simp] theorem dropRunningCrc_hostStores (s : State) : (dropRunningCrc s).hostStores = s.hostStores := by unfold dropRunningCrc; split <;> rfl
@[simp] theorem dropRunningCrc_unordered (s : State) : (dropRunningCrc s).unordered = s.unordered := by unfold dropRunningCrc; split <;> rfl
@[simp] theorem dropRunningCrc_engStores (s : State) : (dropRunningCrc s).engStores = s.engStores := by unfold dropRunningCrc; split <;> rfl
@[simp] theorem dropRunningCrc_seenStores (s : State) : (dropRunningCrc s).seenStores = s.seenStores := by unfold dropRunningCrc; split <;> rfl

@[simp] theorem raiseFault_lat (c : FaultCode) (s : State) : (raiseFault c s).lat = s.lat := by unfold raiseFault; split <;> simp
@[simp] theorem raiseFault_config (c : FaultCode) (s : State) : (raiseFault c s).config = s.config := by unfold raiseFault; split <;> simp
@[simp] theorem raiseFault_cmdIdx (c : FaultCode) (s : State) : (raiseFault c s).cmdIdx = s.cmdIdx := by unfold raiseFault; split <;> simp
@[simp] theorem raiseFault_cmdArg (c : FaultCode) (s : State) : (raiseFault c s).cmdArg = s.cmdArg := by unfold raiseFault; split <;> simp
@[simp] theorem raiseFault_data (c : FaultCode) (s : State) : (raiseFault c s).data = s.data := by unfold raiseFault; split <;> simp
@[simp] theorem raiseFault_bufAddr (c : FaultCode) (s : State) : (raiseFault c s).bufAddr = s.bufAddr := by unfold raiseFault; split <;> simp
@[simp] theorem raiseFault_resp0 (c : FaultCode) (s : State) : (raiseFault c s).resp0 = s.resp0 := by unfold raiseFault; split <;> simp
@[simp] theorem raiseFault_resp1 (c : FaultCode) (s : State) : (raiseFault c s).resp1 = s.resp1 := by unfold raiseFault; split <;> simp
@[simp] theorem raiseFault_dresp (c : FaultCode) (s : State) : (raiseFault c s).dresp = s.dresp := by unfold raiseFault; split <;> simp
@[simp] theorem raiseFault_mem (c : FaultCode) (s : State) : (raiseFault c s).mem = s.mem := by unfold raiseFault; split <;> simp
@[simp] theorem raiseFault_params (c : FaultCode) (s : State) : (raiseFault c s).params = s.params := by unfold raiseFault; split <;> simp
@[simp] theorem raiseFault_hostq (c : FaultCode) (s : State) : (raiseFault c s).hostq = s.hostq := by unfold raiseFault; split <;> simp
@[simp] theorem raiseFault_rdata (c : FaultCode) (s : State) : (raiseFault c s).rdata = s.rdata := by unfold raiseFault; split <;> simp
@[simp] theorem raiseFault_card (c : FaultCode) (s : State) : (raiseFault c s).card = s.card := by unfold raiseFault; split <;> simp
@[simp] theorem raiseFault_hostStores (c : FaultCode) (s : State) : (raiseFault c s).hostStores = s.hostStores := by unfold raiseFault; split <;> simp
@[simp] theorem raiseFault_unordered (c : FaultCode) (s : State) : (raiseFault c s).unordered = s.unordered := by unfold raiseFault; split <;> simp
@[simp] theorem raiseFault_engStores (c : FaultCode) (s : State) : (raiseFault c s).engStores = s.engStores := by unfold raiseFault; split <;> simp
@[simp] theorem raiseFault_seenStores (c : FaultCode) (s : State) : (raiseFault c s).seenStores = s.seenStores := by unfold raiseFault; split <;> simp

@[simp] theorem latchOperands_config (op : BitVec 5) (s : State) : (latchOperands op s).config = s.config := rfl
@[simp] theorem latchOperands_cmdIdx (op : BitVec 5) (s : State) : (latchOperands op s).cmdIdx = s.cmdIdx := rfl
@[simp] theorem latchOperands_cmdArg (op : BitVec 5) (s : State) : (latchOperands op s).cmdArg = s.cmdArg := rfl
@[simp] theorem latchOperands_data (op : BitVec 5) (s : State) : (latchOperands op s).data = s.data := rfl
@[simp] theorem latchOperands_bufAddr (op : BitVec 5) (s : State) : (latchOperands op s).bufAddr = s.bufAddr := rfl
@[simp] theorem latchOperands_resp0 (op : BitVec 5) (s : State) : (latchOperands op s).resp0 = s.resp0 := rfl
@[simp] theorem latchOperands_resp1 (op : BitVec 5) (s : State) : (latchOperands op s).resp1 = s.resp1 := rfl
@[simp] theorem latchOperands_dresp (op : BitVec 5) (s : State) : (latchOperands op s).dresp = s.dresp := rfl
@[simp] theorem latchOperands_crc7 (op : BitVec 5) (s : State) : (latchOperands op s).crc7 = s.crc7 := rfl
@[simp] theorem latchOperands_crc16 (op : BitVec 5) (s : State) : (latchOperands op s).crc16 = s.crc16 := rfl
@[simp] theorem latchOperands_bus (op : BitVec 5) (s : State) : (latchOperands op s).bus = s.bus := rfl
@[simp] theorem latchOperands_faultCode (op : BitVec 5) (s : State) : (latchOperands op s).faultCode = s.faultCode := rfl
@[simp] theorem latchOperands_cont (op : BitVec 5) (s : State) : (latchOperands op s).cont = s.cont := rfl
@[simp] theorem latchOperands_init (op : BitVec 5) (s : State) : (latchOperands op s).init = s.init := rfl
@[simp] theorem latchOperands_wire (op : BitVec 5) (s : State) : (latchOperands op s).wire = s.wire := rfl
@[simp] theorem latchOperands_mem (op : BitVec 5) (s : State) : (latchOperands op s).mem = s.mem := rfl
@[simp] theorem latchOperands_params (op : BitVec 5) (s : State) : (latchOperands op s).params = s.params := rfl
@[simp] theorem latchOperands_hostq (op : BitVec 5) (s : State) : (latchOperands op s).hostq = s.hostq := rfl
@[simp] theorem latchOperands_rdata (op : BitVec 5) (s : State) : (latchOperands op s).rdata = s.rdata := rfl
@[simp] theorem latchOperands_card (op : BitVec 5) (s : State) : (latchOperands op s).card = s.card := rfl
@[simp] theorem latchOperands_draws (op : BitVec 5) (s : State) : (latchOperands op s).draws = s.draws := rfl
@[simp] theorem latchOperands_hostStores (op : BitVec 5) (s : State) : (latchOperands op s).hostStores = s.hostStores := rfl
@[simp] theorem latchOperands_unordered (op : BitVec 5) (s : State) : (latchOperands op s).unordered = s.unordered := rfl
@[simp] theorem latchOperands_engStores (op : BitVec 5) (s : State) : (latchOperands op s).engStores = s.engStores := rfl
@[simp] theorem latchOperands_seenStores (op : BitVec 5) (s : State) : (latchOperands op s).seenStores = s.seenStores := rfl

@[simp] theorem armData_lat (s : State) : (armData s).lat = s.lat := rfl
@[simp] theorem armData_config (s : State) : (armData s).config = s.config := rfl
@[simp] theorem armData_cmdIdx (s : State) : (armData s).cmdIdx = s.cmdIdx := rfl
@[simp] theorem armData_cmdArg (s : State) : (armData s).cmdArg = s.cmdArg := rfl
@[simp] theorem armData_data (s : State) : (armData s).data = s.data := rfl
@[simp] theorem armData_bufAddr (s : State) : (armData s).bufAddr = s.bufAddr := rfl
@[simp] theorem armData_resp0 (s : State) : (armData s).resp0 = s.resp0 := rfl
@[simp] theorem armData_resp1 (s : State) : (armData s).resp1 = s.resp1 := rfl
@[simp] theorem armData_dresp (s : State) : (armData s).dresp = s.dresp := rfl
@[simp] theorem armData_crc7 (s : State) : (armData s).crc7 = s.crc7 := rfl
@[simp] theorem armData_bus (s : State) : (armData s).bus = s.bus := rfl
@[simp] theorem armData_faultCode (s : State) : (armData s).faultCode = s.faultCode := rfl
@[simp] theorem armData_cont (s : State) : (armData s).cont = s.cont := rfl
@[simp] theorem armData_init (s : State) : (armData s).init = s.init := rfl
@[simp] theorem armData_wire (s : State) : (armData s).wire = s.wire := rfl
@[simp] theorem armData_mem (s : State) : (armData s).mem = s.mem := rfl
@[simp] theorem armData_params (s : State) : (armData s).params = s.params := rfl
@[simp] theorem armData_hostq (s : State) : (armData s).hostq = s.hostq := rfl
@[simp] theorem armData_rdata (s : State) : (armData s).rdata = s.rdata := rfl
@[simp] theorem armData_card (s : State) : (armData s).card = s.card := rfl
@[simp] theorem armData_draws (s : State) : (armData s).draws = s.draws := rfl
@[simp] theorem armData_hostStores (s : State) : (armData s).hostStores = s.hostStores := rfl
@[simp] theorem armData_unordered (s : State) : (armData s).unordered = s.unordered := rfl
@[simp] theorem armData_engStores (s : State) : (armData s).engStores = s.engStores := rfl
@[simp] theorem armData_seenStores (s : State) : (armData s).seenStores = s.seenStores := rfl

@[simp] theorem accumulate_lat (d : Byte) (s : State) : (accumulate d s).lat = s.lat := rfl
@[simp] theorem accumulate_status (d : Byte) (s : State) : (accumulate d s).status = s.status := rfl
@[simp] theorem accumulate_config (d : Byte) (s : State) : (accumulate d s).config = s.config := rfl
@[simp] theorem accumulate_cmdIdx (d : Byte) (s : State) : (accumulate d s).cmdIdx = s.cmdIdx := rfl
@[simp] theorem accumulate_cmdArg (d : Byte) (s : State) : (accumulate d s).cmdArg = s.cmdArg := rfl
@[simp] theorem accumulate_data (d : Byte) (s : State) : (accumulate d s).data = s.data := rfl
@[simp] theorem accumulate_bufAddr (d : Byte) (s : State) : (accumulate d s).bufAddr = s.bufAddr := rfl
@[simp] theorem accumulate_resp0 (d : Byte) (s : State) : (accumulate d s).resp0 = s.resp0 := rfl
@[simp] theorem accumulate_resp1 (d : Byte) (s : State) : (accumulate d s).resp1 = s.resp1 := rfl
@[simp] theorem accumulate_dresp (d : Byte) (s : State) : (accumulate d s).dresp = s.dresp := rfl
@[simp] theorem accumulate_crc7 (d : Byte) (s : State) : (accumulate d s).crc7 = s.crc7 := rfl
@[simp] theorem accumulate_bus (d : Byte) (s : State) : (accumulate d s).bus = s.bus := rfl
@[simp] theorem accumulate_faultCode (d : Byte) (s : State) : (accumulate d s).faultCode = s.faultCode := rfl
@[simp] theorem accumulate_cont (d : Byte) (s : State) : (accumulate d s).cont = s.cont := rfl
@[simp] theorem accumulate_init (d : Byte) (s : State) : (accumulate d s).init = s.init := rfl
@[simp] theorem accumulate_wire (d : Byte) (s : State) : (accumulate d s).wire = s.wire := rfl
@[simp] theorem accumulate_mem (d : Byte) (s : State) : (accumulate d s).mem = s.mem := rfl
@[simp] theorem accumulate_params (d : Byte) (s : State) : (accumulate d s).params = s.params := rfl
@[simp] theorem accumulate_hostq (d : Byte) (s : State) : (accumulate d s).hostq = s.hostq := rfl
@[simp] theorem accumulate_rdata (d : Byte) (s : State) : (accumulate d s).rdata = s.rdata := rfl
@[simp] theorem accumulate_card (d : Byte) (s : State) : (accumulate d s).card = s.card := rfl
@[simp] theorem accumulate_draws (d : Byte) (s : State) : (accumulate d s).draws = s.draws := rfl
@[simp] theorem accumulate_hostStores (d : Byte) (s : State) : (accumulate d s).hostStores = s.hostStores := rfl
@[simp] theorem accumulate_unordered (d : Byte) (s : State) : (accumulate d s).unordered = s.unordered := rfl
@[simp] theorem accumulate_engStores (d : Byte) (s : State) : (accumulate d s).engStores = s.engStores := rfl
@[simp] theorem accumulate_seenStores (d : Byte) (s : State) : (accumulate d s).seenStores = s.seenStores := rfl

@[simp] theorem engineStore_lat (a : Nat) (d : Byte) (s : State) : (engineStore a d s).lat = s.lat := rfl
@[simp] theorem engineStore_status (a : Nat) (d : Byte) (s : State) : (engineStore a d s).status = s.status := rfl
@[simp] theorem engineStore_config (a : Nat) (d : Byte) (s : State) : (engineStore a d s).config = s.config := rfl
@[simp] theorem engineStore_cmdIdx (a : Nat) (d : Byte) (s : State) : (engineStore a d s).cmdIdx = s.cmdIdx := rfl
@[simp] theorem engineStore_cmdArg (a : Nat) (d : Byte) (s : State) : (engineStore a d s).cmdArg = s.cmdArg := rfl
@[simp] theorem engineStore_data (a : Nat) (d : Byte) (s : State) : (engineStore a d s).data = s.data := rfl
@[simp] theorem engineStore_bufAddr (a : Nat) (d : Byte) (s : State) : (engineStore a d s).bufAddr = s.bufAddr := rfl
@[simp] theorem engineStore_resp0 (a : Nat) (d : Byte) (s : State) : (engineStore a d s).resp0 = s.resp0 := rfl
@[simp] theorem engineStore_resp1 (a : Nat) (d : Byte) (s : State) : (engineStore a d s).resp1 = s.resp1 := rfl
@[simp] theorem engineStore_dresp (a : Nat) (d : Byte) (s : State) : (engineStore a d s).dresp = s.dresp := rfl
@[simp] theorem engineStore_crc7 (a : Nat) (d : Byte) (s : State) : (engineStore a d s).crc7 = s.crc7 := rfl
@[simp] theorem engineStore_crc16 (a : Nat) (d : Byte) (s : State) : (engineStore a d s).crc16 = s.crc16 := rfl
@[simp] theorem engineStore_bus (a : Nat) (d : Byte) (s : State) : (engineStore a d s).bus = s.bus := rfl
@[simp] theorem engineStore_faultCode (a : Nat) (d : Byte) (s : State) : (engineStore a d s).faultCode = s.faultCode := rfl
@[simp] theorem engineStore_cont (a : Nat) (d : Byte) (s : State) : (engineStore a d s).cont = s.cont := rfl
@[simp] theorem engineStore_init (a : Nat) (d : Byte) (s : State) : (engineStore a d s).init = s.init := rfl
@[simp] theorem engineStore_wire (a : Nat) (d : Byte) (s : State) : (engineStore a d s).wire = s.wire := rfl
@[simp] theorem engineStore_params (a : Nat) (d : Byte) (s : State) : (engineStore a d s).params = s.params := rfl
@[simp] theorem engineStore_hostq (a : Nat) (d : Byte) (s : State) : (engineStore a d s).hostq = s.hostq := rfl
@[simp] theorem engineStore_rdata (a : Nat) (d : Byte) (s : State) : (engineStore a d s).rdata = s.rdata := rfl
@[simp] theorem engineStore_card (a : Nat) (d : Byte) (s : State) : (engineStore a d s).card = s.card := rfl
@[simp] theorem engineStore_draws (a : Nat) (d : Byte) (s : State) : (engineStore a d s).draws = s.draws := rfl
@[simp] theorem engineStore_hostStores (a : Nat) (d : Byte) (s : State) : (engineStore a d s).hostStores = s.hostStores := rfl
@[simp] theorem engineStore_unordered (a : Nat) (d : Byte) (s : State) : (engineStore a d s).unordered = s.unordered := rfl

@[simp] theorem countEngineDraw_lat (a : Nat) (s : State) : (countEngineDraw a s).lat = s.lat := by unfold countEngineDraw; split <;> rfl
@[simp] theorem countEngineDraw_status (a : Nat) (s : State) : (countEngineDraw a s).status = s.status := by unfold countEngineDraw; split <;> rfl
@[simp] theorem countEngineDraw_config (a : Nat) (s : State) : (countEngineDraw a s).config = s.config := by unfold countEngineDraw; split <;> rfl
@[simp] theorem countEngineDraw_cmdIdx (a : Nat) (s : State) : (countEngineDraw a s).cmdIdx = s.cmdIdx := by unfold countEngineDraw; split <;> rfl
@[simp] theorem countEngineDraw_cmdArg (a : Nat) (s : State) : (countEngineDraw a s).cmdArg = s.cmdArg := by unfold countEngineDraw; split <;> rfl
@[simp] theorem countEngineDraw_data (a : Nat) (s : State) : (countEngineDraw a s).data = s.data := by unfold countEngineDraw; split <;> rfl
@[simp] theorem countEngineDraw_bufAddr (a : Nat) (s : State) : (countEngineDraw a s).bufAddr = s.bufAddr := by unfold countEngineDraw; split <;> rfl
@[simp] theorem countEngineDraw_resp0 (a : Nat) (s : State) : (countEngineDraw a s).resp0 = s.resp0 := by unfold countEngineDraw; split <;> rfl
@[simp] theorem countEngineDraw_resp1 (a : Nat) (s : State) : (countEngineDraw a s).resp1 = s.resp1 := by unfold countEngineDraw; split <;> rfl
@[simp] theorem countEngineDraw_dresp (a : Nat) (s : State) : (countEngineDraw a s).dresp = s.dresp := by unfold countEngineDraw; split <;> rfl
@[simp] theorem countEngineDraw_crc7 (a : Nat) (s : State) : (countEngineDraw a s).crc7 = s.crc7 := by unfold countEngineDraw; split <;> rfl
@[simp] theorem countEngineDraw_crc16 (a : Nat) (s : State) : (countEngineDraw a s).crc16 = s.crc16 := by unfold countEngineDraw; split <;> rfl
@[simp] theorem countEngineDraw_bus (a : Nat) (s : State) : (countEngineDraw a s).bus = s.bus := by unfold countEngineDraw; split <;> rfl
@[simp] theorem countEngineDraw_faultCode (a : Nat) (s : State) : (countEngineDraw a s).faultCode = s.faultCode := by unfold countEngineDraw; split <;> rfl
@[simp] theorem countEngineDraw_cont (a : Nat) (s : State) : (countEngineDraw a s).cont = s.cont := by unfold countEngineDraw; split <;> rfl
@[simp] theorem countEngineDraw_init (a : Nat) (s : State) : (countEngineDraw a s).init = s.init := by unfold countEngineDraw; split <;> rfl
@[simp] theorem countEngineDraw_wire (a : Nat) (s : State) : (countEngineDraw a s).wire = s.wire := by unfold countEngineDraw; split <;> rfl
@[simp] theorem countEngineDraw_mem (a : Nat) (s : State) : (countEngineDraw a s).mem = s.mem := by unfold countEngineDraw; split <;> rfl
@[simp] theorem countEngineDraw_params (a : Nat) (s : State) : (countEngineDraw a s).params = s.params := by unfold countEngineDraw; split <;> rfl
@[simp] theorem countEngineDraw_hostq (a : Nat) (s : State) : (countEngineDraw a s).hostq = s.hostq := by unfold countEngineDraw; split <;> rfl
@[simp] theorem countEngineDraw_rdata (a : Nat) (s : State) : (countEngineDraw a s).rdata = s.rdata := by unfold countEngineDraw; split <;> rfl
@[simp] theorem countEngineDraw_card (a : Nat) (s : State) : (countEngineDraw a s).card = s.card := by unfold countEngineDraw; split <;> rfl
@[simp] theorem countEngineDraw_hostStores (a : Nat) (s : State) : (countEngineDraw a s).hostStores = s.hostStores := by unfold countEngineDraw; split <;> rfl
@[simp] theorem countEngineDraw_unordered (a : Nat) (s : State) : (countEngineDraw a s).unordered = s.unordered := by unfold countEngineDraw; split <;> rfl
@[simp] theorem countEngineDraw_engStores (a : Nat) (s : State) : (countEngineDraw a s).engStores = s.engStores := by unfold countEngineDraw; split <;> rfl
@[simp] theorem countEngineDraw_seenStores (a : Nat) (s : State) : (countEngineDraw a s).seenStores = s.seenStores := by unfold countEngineDraw; split <;> rfl

@[simp] theorem releaseBuffer_lat (s : State) : (releaseBuffer s).lat = s.lat := rfl
@[simp] theorem releaseBuffer_config (s : State) : (releaseBuffer s).config = s.config := rfl
@[simp] theorem releaseBuffer_cmdIdx (s : State) : (releaseBuffer s).cmdIdx = s.cmdIdx := rfl
@[simp] theorem releaseBuffer_cmdArg (s : State) : (releaseBuffer s).cmdArg = s.cmdArg := rfl
@[simp] theorem releaseBuffer_data (s : State) : (releaseBuffer s).data = s.data := rfl
@[simp] theorem releaseBuffer_bufAddr (s : State) : (releaseBuffer s).bufAddr = s.bufAddr := rfl
@[simp] theorem releaseBuffer_resp0 (s : State) : (releaseBuffer s).resp0 = s.resp0 := rfl
@[simp] theorem releaseBuffer_resp1 (s : State) : (releaseBuffer s).resp1 = s.resp1 := rfl
@[simp] theorem releaseBuffer_dresp (s : State) : (releaseBuffer s).dresp = s.dresp := rfl
@[simp] theorem releaseBuffer_crc7 (s : State) : (releaseBuffer s).crc7 = s.crc7 := rfl
@[simp] theorem releaseBuffer_crc16 (s : State) : (releaseBuffer s).crc16 = s.crc16 := rfl
@[simp] theorem releaseBuffer_faultCode (s : State) : (releaseBuffer s).faultCode = s.faultCode := rfl
@[simp] theorem releaseBuffer_cont (s : State) : (releaseBuffer s).cont = s.cont := rfl
@[simp] theorem releaseBuffer_init (s : State) : (releaseBuffer s).init = s.init := rfl
@[simp] theorem releaseBuffer_wire (s : State) : (releaseBuffer s).wire = s.wire := rfl
@[simp] theorem releaseBuffer_mem (s : State) : (releaseBuffer s).mem = s.mem := rfl
@[simp] theorem releaseBuffer_params (s : State) : (releaseBuffer s).params = s.params := rfl
@[simp] theorem releaseBuffer_hostq (s : State) : (releaseBuffer s).hostq = s.hostq := rfl
@[simp] theorem releaseBuffer_rdata (s : State) : (releaseBuffer s).rdata = s.rdata := rfl
@[simp] theorem releaseBuffer_card (s : State) : (releaseBuffer s).card = s.card := rfl
@[simp] theorem releaseBuffer_draws (s : State) : (releaseBuffer s).draws = s.draws := rfl
@[simp] theorem releaseBuffer_hostStores (s : State) : (releaseBuffer s).hostStores = s.hostStores := rfl
@[simp] theorem releaseBuffer_unordered (s : State) : (releaseBuffer s).unordered = s.unordered := rfl
@[simp] theorem releaseBuffer_engStores (s : State) : (releaseBuffer s).engStores = s.engStores := rfl
@[simp] theorem releaseBuffer_seenStores (s : State) : (releaseBuffer s).seenStores = s.seenStores := rfl

@[simp] theorem commitPending_lat (p : Pending) (s : State) : (commitPending p s).lat = s.lat := rfl
@[simp] theorem commitPending_status (p : Pending) (s : State) : (commitPending p s).status = s.status := rfl
@[simp] theorem commitPending_config (p : Pending) (s : State) : (commitPending p s).config = s.config := rfl
@[simp] theorem commitPending_cmdIdx (p : Pending) (s : State) : (commitPending p s).cmdIdx = s.cmdIdx := rfl
@[simp] theorem commitPending_cmdArg (p : Pending) (s : State) : (commitPending p s).cmdArg = s.cmdArg := rfl
@[simp] theorem commitPending_data (p : Pending) (s : State) : (commitPending p s).data = s.data := rfl
@[simp] theorem commitPending_bufAddr (p : Pending) (s : State) : (commitPending p s).bufAddr = s.bufAddr := rfl
@[simp] theorem commitPending_dresp (p : Pending) (s : State) : (commitPending p s).dresp = s.dresp := rfl
@[simp] theorem commitPending_crc7 (p : Pending) (s : State) : (commitPending p s).crc7 = s.crc7 := rfl
@[simp] theorem commitPending_crc16 (p : Pending) (s : State) : (commitPending p s).crc16 = s.crc16 := rfl
@[simp] theorem commitPending_bus (p : Pending) (s : State) : (commitPending p s).bus = s.bus := rfl
@[simp] theorem commitPending_faultCode (p : Pending) (s : State) : (commitPending p s).faultCode = s.faultCode := rfl
@[simp] theorem commitPending_cont (p : Pending) (s : State) : (commitPending p s).cont = s.cont := rfl
@[simp] theorem commitPending_init (p : Pending) (s : State) : (commitPending p s).init = s.init := rfl
@[simp] theorem commitPending_wire (p : Pending) (s : State) : (commitPending p s).wire = s.wire := rfl
@[simp] theorem commitPending_mem (p : Pending) (s : State) : (commitPending p s).mem = s.mem := rfl
@[simp] theorem commitPending_params (p : Pending) (s : State) : (commitPending p s).params = s.params := rfl
@[simp] theorem commitPending_hostq (p : Pending) (s : State) : (commitPending p s).hostq = s.hostq := rfl
@[simp] theorem commitPending_rdata (p : Pending) (s : State) : (commitPending p s).rdata = s.rdata := rfl
@[simp] theorem commitPending_card (p : Pending) (s : State) : (commitPending p s).card = s.card := rfl
@[simp] theorem commitPending_draws (p : Pending) (s : State) : (commitPending p s).draws = s.draws := rfl
@[simp] theorem commitPending_hostStores (p : Pending) (s : State) : (commitPending p s).hostStores = s.hostStores := rfl
@[simp] theorem commitPending_unordered (p : Pending) (s : State) : (commitPending p s).unordered = s.unordered := rfl
@[simp] theorem commitPending_engStores (p : Pending) (s : State) : (commitPending p s).engStores = s.engStores := rfl
@[simp] theorem commitPending_seenStores (p : Pending) (s : State) : (commitPending p s).seenStores = s.seenStores := rfl

@[simp] theorem setCardState_lat (c : CardState) (s : State) : (setCardState c s).lat = s.lat := rfl
@[simp] theorem setCardState_config (c : CardState) (s : State) : (setCardState c s).config = s.config := rfl
@[simp] theorem setCardState_cmdIdx (c : CardState) (s : State) : (setCardState c s).cmdIdx = s.cmdIdx := rfl
@[simp] theorem setCardState_cmdArg (c : CardState) (s : State) : (setCardState c s).cmdArg = s.cmdArg := rfl
@[simp] theorem setCardState_data (c : CardState) (s : State) : (setCardState c s).data = s.data := rfl
@[simp] theorem setCardState_bufAddr (c : CardState) (s : State) : (setCardState c s).bufAddr = s.bufAddr := rfl
@[simp] theorem setCardState_resp0 (c : CardState) (s : State) : (setCardState c s).resp0 = s.resp0 := rfl
@[simp] theorem setCardState_resp1 (c : CardState) (s : State) : (setCardState c s).resp1 = s.resp1 := rfl
@[simp] theorem setCardState_dresp (c : CardState) (s : State) : (setCardState c s).dresp = s.dresp := rfl
@[simp] theorem setCardState_crc7 (c : CardState) (s : State) : (setCardState c s).crc7 = s.crc7 := rfl
@[simp] theorem setCardState_crc16 (c : CardState) (s : State) : (setCardState c s).crc16 = s.crc16 := rfl
@[simp] theorem setCardState_bus (c : CardState) (s : State) : (setCardState c s).bus = s.bus := rfl
@[simp] theorem setCardState_faultCode (c : CardState) (s : State) : (setCardState c s).faultCode = s.faultCode := rfl
@[simp] theorem setCardState_cont (c : CardState) (s : State) : (setCardState c s).cont = s.cont := rfl
@[simp] theorem setCardState_init (c : CardState) (s : State) : (setCardState c s).init = s.init := rfl
@[simp] theorem setCardState_wire (c : CardState) (s : State) : (setCardState c s).wire = s.wire := rfl
@[simp] theorem setCardState_mem (c : CardState) (s : State) : (setCardState c s).mem = s.mem := rfl
@[simp] theorem setCardState_params (c : CardState) (s : State) : (setCardState c s).params = s.params := rfl
@[simp] theorem setCardState_hostq (c : CardState) (s : State) : (setCardState c s).hostq = s.hostq := rfl
@[simp] theorem setCardState_rdata (c : CardState) (s : State) : (setCardState c s).rdata = s.rdata := rfl
@[simp] theorem setCardState_card (c : CardState) (s : State) : (setCardState c s).card = s.card := rfl
@[simp] theorem setCardState_draws (c : CardState) (s : State) : (setCardState c s).draws = s.draws := rfl
@[simp] theorem setCardState_hostStores (c : CardState) (s : State) : (setCardState c s).hostStores = s.hostStores := rfl
@[simp] theorem setCardState_unordered (c : CardState) (s : State) : (setCardState c s).unordered = s.unordered := rfl
@[simp] theorem setCardState_engStores (c : CardState) (s : State) : (setCardState c s).engStores = s.engStores := rfl
@[simp] theorem setCardState_seenStores (c : CardState) (s : State) : (setCardState c s).seenStores = s.seenStores := rfl

@[simp] theorem initEnter_lat (c : InitCmd) (p : Pending) (s : State) : (initEnter c p s).lat = s.lat := rfl
@[simp] theorem initEnter_status (c : InitCmd) (p : Pending) (s : State) : (initEnter c p s).status = s.status := rfl
@[simp] theorem initEnter_config (c : InitCmd) (p : Pending) (s : State) : (initEnter c p s).config = s.config := rfl
@[simp] theorem initEnter_cmdIdx (c : InitCmd) (p : Pending) (s : State) : (initEnter c p s).cmdIdx = s.cmdIdx := rfl
@[simp] theorem initEnter_cmdArg (c : InitCmd) (p : Pending) (s : State) : (initEnter c p s).cmdArg = s.cmdArg := rfl
@[simp] theorem initEnter_data (c : InitCmd) (p : Pending) (s : State) : (initEnter c p s).data = s.data := rfl
@[simp] theorem initEnter_bufAddr (c : InitCmd) (p : Pending) (s : State) : (initEnter c p s).bufAddr = s.bufAddr := rfl
@[simp] theorem initEnter_resp0 (c : InitCmd) (p : Pending) (s : State) : (initEnter c p s).resp0 = s.resp0 := rfl
@[simp] theorem initEnter_resp1 (c : InitCmd) (p : Pending) (s : State) : (initEnter c p s).resp1 = s.resp1 := rfl
@[simp] theorem initEnter_dresp (c : InitCmd) (p : Pending) (s : State) : (initEnter c p s).dresp = s.dresp := rfl
@[simp] theorem initEnter_crc7 (c : InitCmd) (p : Pending) (s : State) : (initEnter c p s).crc7 = s.crc7 := rfl
@[simp] theorem initEnter_crc16 (c : InitCmd) (p : Pending) (s : State) : (initEnter c p s).crc16 = s.crc16 := rfl
@[simp] theorem initEnter_bus (c : InitCmd) (p : Pending) (s : State) : (initEnter c p s).bus = s.bus := rfl
@[simp] theorem initEnter_faultCode (c : InitCmd) (p : Pending) (s : State) : (initEnter c p s).faultCode = s.faultCode := rfl
@[simp] theorem initEnter_wire (c : InitCmd) (p : Pending) (s : State) : (initEnter c p s).wire = s.wire := rfl
@[simp] theorem initEnter_mem (c : InitCmd) (p : Pending) (s : State) : (initEnter c p s).mem = s.mem := rfl
@[simp] theorem initEnter_params (c : InitCmd) (p : Pending) (s : State) : (initEnter c p s).params = s.params := rfl
@[simp] theorem initEnter_hostq (c : InitCmd) (p : Pending) (s : State) : (initEnter c p s).hostq = s.hostq := rfl
@[simp] theorem initEnter_rdata (c : InitCmd) (p : Pending) (s : State) : (initEnter c p s).rdata = s.rdata := rfl
@[simp] theorem initEnter_card (c : InitCmd) (p : Pending) (s : State) : (initEnter c p s).card = s.card := rfl
@[simp] theorem initEnter_draws (c : InitCmd) (p : Pending) (s : State) : (initEnter c p s).draws = s.draws := rfl
@[simp] theorem initEnter_hostStores (c : InitCmd) (p : Pending) (s : State) : (initEnter c p s).hostStores = s.hostStores := rfl
@[simp] theorem initEnter_unordered (c : InitCmd) (p : Pending) (s : State) : (initEnter c p s).unordered = s.unordered := rfl
@[simp] theorem initEnter_engStores (c : InitCmd) (p : Pending) (s : State) : (initEnter c p s).engStores = s.engStores := rfl
@[simp] theorem initEnter_seenStores (c : InitCmd) (p : Pending) (s : State) : (initEnter c p s).seenStores = s.seenStores := rfl

@[simp] theorem initAgain_lat (c : InitCmd) (p : Pending) (s : State) : (initAgain c p s).lat = s.lat := rfl
@[simp] theorem initAgain_status (c : InitCmd) (p : Pending) (s : State) : (initAgain c p s).status = s.status := rfl
@[simp] theorem initAgain_config (c : InitCmd) (p : Pending) (s : State) : (initAgain c p s).config = s.config := rfl
@[simp] theorem initAgain_cmdIdx (c : InitCmd) (p : Pending) (s : State) : (initAgain c p s).cmdIdx = s.cmdIdx := rfl
@[simp] theorem initAgain_cmdArg (c : InitCmd) (p : Pending) (s : State) : (initAgain c p s).cmdArg = s.cmdArg := rfl
@[simp] theorem initAgain_data (c : InitCmd) (p : Pending) (s : State) : (initAgain c p s).data = s.data := rfl
@[simp] theorem initAgain_bufAddr (c : InitCmd) (p : Pending) (s : State) : (initAgain c p s).bufAddr = s.bufAddr := rfl
@[simp] theorem initAgain_resp0 (c : InitCmd) (p : Pending) (s : State) : (initAgain c p s).resp0 = s.resp0 := rfl
@[simp] theorem initAgain_resp1 (c : InitCmd) (p : Pending) (s : State) : (initAgain c p s).resp1 = s.resp1 := rfl
@[simp] theorem initAgain_dresp (c : InitCmd) (p : Pending) (s : State) : (initAgain c p s).dresp = s.dresp := rfl
@[simp] theorem initAgain_crc7 (c : InitCmd) (p : Pending) (s : State) : (initAgain c p s).crc7 = s.crc7 := rfl
@[simp] theorem initAgain_crc16 (c : InitCmd) (p : Pending) (s : State) : (initAgain c p s).crc16 = s.crc16 := rfl
@[simp] theorem initAgain_bus (c : InitCmd) (p : Pending) (s : State) : (initAgain c p s).bus = s.bus := rfl
@[simp] theorem initAgain_faultCode (c : InitCmd) (p : Pending) (s : State) : (initAgain c p s).faultCode = s.faultCode := rfl
@[simp] theorem initAgain_init (c : InitCmd) (p : Pending) (s : State) : (initAgain c p s).init = s.init := rfl
@[simp] theorem initAgain_wire (c : InitCmd) (p : Pending) (s : State) : (initAgain c p s).wire = s.wire := rfl
@[simp] theorem initAgain_mem (c : InitCmd) (p : Pending) (s : State) : (initAgain c p s).mem = s.mem := rfl
@[simp] theorem initAgain_params (c : InitCmd) (p : Pending) (s : State) : (initAgain c p s).params = s.params := rfl
@[simp] theorem initAgain_hostq (c : InitCmd) (p : Pending) (s : State) : (initAgain c p s).hostq = s.hostq := rfl
@[simp] theorem initAgain_rdata (c : InitCmd) (p : Pending) (s : State) : (initAgain c p s).rdata = s.rdata := rfl
@[simp] theorem initAgain_card (c : InitCmd) (p : Pending) (s : State) : (initAgain c p s).card = s.card := rfl
@[simp] theorem initAgain_draws (c : InitCmd) (p : Pending) (s : State) : (initAgain c p s).draws = s.draws := rfl
@[simp] theorem initAgain_hostStores (c : InitCmd) (p : Pending) (s : State) : (initAgain c p s).hostStores = s.hostStores := rfl
@[simp] theorem initAgain_unordered (c : InitCmd) (p : Pending) (s : State) : (initAgain c p s).unordered = s.unordered := rfl
@[simp] theorem initAgain_engStores (c : InitCmd) (p : Pending) (s : State) : (initAgain c p s).engStores = s.engStores := rfl
@[simp] theorem initAgain_seenStores (c : InitCmd) (p : Pending) (s : State) : (initAgain c p s).seenStores = s.seenStores := rfl

@[simp] theorem initStart_lat (s : State) : (initStart s).lat = s.lat := by simp [initStart]
@[simp] theorem initStart_config (s : State) : (initStart s).config = s.config := by simp [initStart]
@[simp] theorem initStart_cmdIdx (s : State) : (initStart s).cmdIdx = s.cmdIdx := by simp [initStart]
@[simp] theorem initStart_cmdArg (s : State) : (initStart s).cmdArg = s.cmdArg := by simp [initStart]
@[simp] theorem initStart_data (s : State) : (initStart s).data = s.data := by simp [initStart]
@[simp] theorem initStart_bufAddr (s : State) : (initStart s).bufAddr = s.bufAddr := by simp [initStart]
@[simp] theorem initStart_resp0 (s : State) : (initStart s).resp0 = s.resp0 := by simp [initStart]
@[simp] theorem initStart_resp1 (s : State) : (initStart s).resp1 = s.resp1 := by simp [initStart]
@[simp] theorem initStart_dresp (s : State) : (initStart s).dresp = s.dresp := by simp [initStart]
@[simp] theorem initStart_crc7 (s : State) : (initStart s).crc7 = s.crc7 := by simp [initStart]
@[simp] theorem initStart_crc16 (s : State) : (initStart s).crc16 = s.crc16 := by simp [initStart]
@[simp] theorem initStart_faultCode (s : State) : (initStart s).faultCode = s.faultCode := by simp [initStart]
@[simp] theorem initStart_cont (s : State) : (initStart s).cont = s.cont := by simp [initStart]
@[simp] theorem initStart_mem (s : State) : (initStart s).mem = s.mem := by simp [initStart]
@[simp] theorem initStart_params (s : State) : (initStart s).params = s.params := by simp [initStart]
@[simp] theorem initStart_hostq (s : State) : (initStart s).hostq = s.hostq := by simp [initStart]
@[simp] theorem initStart_rdata (s : State) : (initStart s).rdata = s.rdata := by simp [initStart]
@[simp] theorem initStart_card (s : State) : (initStart s).card = s.card := by simp [initStart]
@[simp] theorem initStart_draws (s : State) : (initStart s).draws = s.draws := by simp [initStart]
@[simp] theorem initStart_hostStores (s : State) : (initStart s).hostStores = s.hostStores := by simp [initStart]
@[simp] theorem initStart_unordered (s : State) : (initStart s).unordered = s.unordered := by simp [initStart]
@[simp] theorem initStart_engStores (s : State) : (initStart s).engStores = s.engStores := by simp [initStart]
@[simp] theorem initStart_seenStores (s : State) : (initStart s).seenStores = s.seenStores := by simp [initStart]

@[simp] theorem initFail_lat (e : ErrCode) (p : Pending) (s : State) : (initFail e p s).lat = s.lat := by simp [initFail]
@[simp] theorem initFail_config (e : ErrCode) (p : Pending) (s : State) : (initFail e p s).config = s.config := by simp [initFail]
@[simp] theorem initFail_cmdIdx (e : ErrCode) (p : Pending) (s : State) : (initFail e p s).cmdIdx = s.cmdIdx := by simp [initFail]
@[simp] theorem initFail_cmdArg (e : ErrCode) (p : Pending) (s : State) : (initFail e p s).cmdArg = s.cmdArg := by simp [initFail]
@[simp] theorem initFail_data (e : ErrCode) (p : Pending) (s : State) : (initFail e p s).data = s.data := by simp [initFail]
@[simp] theorem initFail_bufAddr (e : ErrCode) (p : Pending) (s : State) : (initFail e p s).bufAddr = s.bufAddr := by simp [initFail]
@[simp] theorem initFail_dresp (e : ErrCode) (p : Pending) (s : State) : (initFail e p s).dresp = s.dresp := by simp [initFail]
@[simp] theorem initFail_crc7 (e : ErrCode) (p : Pending) (s : State) : (initFail e p s).crc7 = s.crc7 := by simp [initFail]
@[simp] theorem initFail_crc16 (e : ErrCode) (p : Pending) (s : State) : (initFail e p s).crc16 = s.crc16 := by simp [initFail]
@[simp] theorem initFail_faultCode (e : ErrCode) (p : Pending) (s : State) : (initFail e p s).faultCode = s.faultCode := by simp [initFail]
@[simp] theorem initFail_mem (e : ErrCode) (p : Pending) (s : State) : (initFail e p s).mem = s.mem := by simp [initFail]
@[simp] theorem initFail_params (e : ErrCode) (p : Pending) (s : State) : (initFail e p s).params = s.params := by simp [initFail]
@[simp] theorem initFail_hostq (e : ErrCode) (p : Pending) (s : State) : (initFail e p s).hostq = s.hostq := by simp [initFail]
@[simp] theorem initFail_rdata (e : ErrCode) (p : Pending) (s : State) : (initFail e p s).rdata = s.rdata := by simp [initFail]
@[simp] theorem initFail_card (e : ErrCode) (p : Pending) (s : State) : (initFail e p s).card = s.card := by simp [initFail]
@[simp] theorem initFail_draws (e : ErrCode) (p : Pending) (s : State) : (initFail e p s).draws = s.draws := by simp [initFail]
@[simp] theorem initFail_hostStores (e : ErrCode) (p : Pending) (s : State) : (initFail e p s).hostStores = s.hostStores := by simp [initFail]
@[simp] theorem initFail_unordered (e : ErrCode) (p : Pending) (s : State) : (initFail e p s).unordered = s.unordered := by simp [initFail]
@[simp] theorem initFail_engStores (e : ErrCode) (p : Pending) (s : State) : (initFail e p s).engStores = s.engStores := by simp [initFail]
@[simp] theorem initFail_seenStores (e : ErrCode) (p : Pending) (s : State) : (initFail e p s).seenStores = s.seenStores := by simp [initFail]

@[simp] theorem tokenFail_lat (e : ErrCode) (d : Byte) (s : State) : (tokenFail e d s).lat = s.lat := by simp [tokenFail]
@[simp] theorem tokenFail_config (e : ErrCode) (d : Byte) (s : State) : (tokenFail e d s).config = s.config := by simp [tokenFail]
@[simp] theorem tokenFail_cmdIdx (e : ErrCode) (d : Byte) (s : State) : (tokenFail e d s).cmdIdx = s.cmdIdx := by simp [tokenFail]
@[simp] theorem tokenFail_cmdArg (e : ErrCode) (d : Byte) (s : State) : (tokenFail e d s).cmdArg = s.cmdArg := by simp [tokenFail]
@[simp] theorem tokenFail_bufAddr (e : ErrCode) (d : Byte) (s : State) : (tokenFail e d s).bufAddr = s.bufAddr := by simp [tokenFail]
@[simp] theorem tokenFail_resp0 (e : ErrCode) (d : Byte) (s : State) : (tokenFail e d s).resp0 = s.resp0 := by simp [tokenFail]
@[simp] theorem tokenFail_resp1 (e : ErrCode) (d : Byte) (s : State) : (tokenFail e d s).resp1 = s.resp1 := by simp [tokenFail]
@[simp] theorem tokenFail_dresp (e : ErrCode) (d : Byte) (s : State) : (tokenFail e d s).dresp = s.dresp := by simp [tokenFail]
@[simp] theorem tokenFail_crc7 (e : ErrCode) (d : Byte) (s : State) : (tokenFail e d s).crc7 = s.crc7 := by simp [tokenFail]
@[simp] theorem tokenFail_crc16 (e : ErrCode) (d : Byte) (s : State) : (tokenFail e d s).crc16 = s.crc16 := by simp [tokenFail]
@[simp] theorem tokenFail_faultCode (e : ErrCode) (d : Byte) (s : State) : (tokenFail e d s).faultCode = s.faultCode := by simp [tokenFail]
@[simp] theorem tokenFail_init (e : ErrCode) (d : Byte) (s : State) : (tokenFail e d s).init = s.init := by simp [tokenFail]
@[simp] theorem tokenFail_mem (e : ErrCode) (d : Byte) (s : State) : (tokenFail e d s).mem = s.mem := by simp [tokenFail]
@[simp] theorem tokenFail_params (e : ErrCode) (d : Byte) (s : State) : (tokenFail e d s).params = s.params := by simp [tokenFail]
@[simp] theorem tokenFail_hostq (e : ErrCode) (d : Byte) (s : State) : (tokenFail e d s).hostq = s.hostq := by simp [tokenFail]
@[simp] theorem tokenFail_rdata (e : ErrCode) (d : Byte) (s : State) : (tokenFail e d s).rdata = s.rdata := by simp [tokenFail]
@[simp] theorem tokenFail_card (e : ErrCode) (d : Byte) (s : State) : (tokenFail e d s).card = s.card := by simp [tokenFail]
@[simp] theorem tokenFail_draws (e : ErrCode) (d : Byte) (s : State) : (tokenFail e d s).draws = s.draws := by simp [tokenFail]
@[simp] theorem tokenFail_hostStores (e : ErrCode) (d : Byte) (s : State) : (tokenFail e d s).hostStores = s.hostStores := by simp [tokenFail]
@[simp] theorem tokenFail_unordered (e : ErrCode) (d : Byte) (s : State) : (tokenFail e d s).unordered = s.unordered := by simp [tokenFail]
@[simp] theorem tokenFail_engStores (e : ErrCode) (d : Byte) (s : State) : (tokenFail e d s).engStores = s.engStores := by simp [tokenFail]
@[simp] theorem tokenFail_seenStores (e : ErrCode) (d : Byte) (s : State) : (tokenFail e d s).seenStores = s.seenStores := by simp [tokenFail]

@[simp] theorem regWrite_lat (off : Nat) (v : Word) (s : State) : (regWrite off v s).lat = s.lat := by unfold regWrite; repeat (first | rfl | split)
@[simp] theorem regWrite_resp0 (off : Nat) (v : Word) (s : State) : (regWrite off v s).resp0 = s.resp0 := by unfold regWrite; repeat (first | rfl | split)
@[simp] theorem regWrite_resp1 (off : Nat) (v : Word) (s : State) : (regWrite off v s).resp1 = s.resp1 := by unfold regWrite; repeat (first | rfl | split)
@[simp] theorem regWrite_dresp (off : Nat) (v : Word) (s : State) : (regWrite off v s).dresp = s.dresp := by unfold regWrite; repeat (first | rfl | split)
@[simp] theorem regWrite_crc7 (off : Nat) (v : Word) (s : State) : (regWrite off v s).crc7 = s.crc7 := by unfold regWrite; repeat (first | rfl | split)
@[simp] theorem regWrite_crc16 (off : Nat) (v : Word) (s : State) : (regWrite off v s).crc16 = s.crc16 := by unfold regWrite; repeat (first | rfl | split)
@[simp] theorem regWrite_bus (off : Nat) (v : Word) (s : State) : (regWrite off v s).bus = s.bus := by unfold regWrite; repeat (first | rfl | split)
@[simp] theorem regWrite_faultCode (off : Nat) (v : Word) (s : State) : (regWrite off v s).faultCode = s.faultCode := by unfold regWrite; repeat (first | rfl | split)
@[simp] theorem regWrite_cont (off : Nat) (v : Word) (s : State) : (regWrite off v s).cont = s.cont := by unfold regWrite; repeat (first | rfl | split)
@[simp] theorem regWrite_init (off : Nat) (v : Word) (s : State) : (regWrite off v s).init = s.init := by unfold regWrite; repeat (first | rfl | split)
@[simp] theorem regWrite_wire (off : Nat) (v : Word) (s : State) : (regWrite off v s).wire = s.wire := by unfold regWrite; repeat (first | rfl | split)
@[simp] theorem regWrite_mem (off : Nat) (v : Word) (s : State) : (regWrite off v s).mem = s.mem := by unfold regWrite; repeat (first | rfl | split)
@[simp] theorem regWrite_params (off : Nat) (v : Word) (s : State) : (regWrite off v s).params = s.params := by unfold regWrite; repeat (first | rfl | split)
@[simp] theorem regWrite_hostq (off : Nat) (v : Word) (s : State) : (regWrite off v s).hostq = s.hostq := by unfold regWrite; repeat (first | rfl | split)
@[simp] theorem regWrite_rdata (off : Nat) (v : Word) (s : State) : (regWrite off v s).rdata = s.rdata := by unfold regWrite; repeat (first | rfl | split)
@[simp] theorem regWrite_card (off : Nat) (v : Word) (s : State) : (regWrite off v s).card = s.card := by unfold regWrite; repeat (first | rfl | split)
@[simp] theorem regWrite_draws (off : Nat) (v : Word) (s : State) : (regWrite off v s).draws = s.draws := by unfold regWrite; repeat (first | rfl | split)
@[simp] theorem regWrite_hostStores (off : Nat) (v : Word) (s : State) : (regWrite off v s).hostStores = s.hostStores := by unfold regWrite; repeat (first | rfl | split)
@[simp] theorem regWrite_unordered (off : Nat) (v : Word) (s : State) : (regWrite off v s).unordered = s.unordered := by unfold regWrite; repeat (first | rfl | split)
@[simp] theorem regWrite_engStores (off : Nat) (v : Word) (s : State) : (regWrite off v s).engStores = s.engStores := by unfold regWrite; repeat (first | rfl | split)
@[simp] theorem regWrite_seenStores (off : Nat) (v : Word) (s : State) : (regWrite off v s).seenStores = s.seenStores := by unfold regWrite; repeat (first | rfl | split)

@[simp] theorem loadReg_lat (off : Nat) (s : State) : (loadReg off s).lat = s.lat := rfl
@[simp] theorem loadReg_status (off : Nat) (s : State) : (loadReg off s).status = s.status := rfl
@[simp] theorem loadReg_config (off : Nat) (s : State) : (loadReg off s).config = s.config := rfl
@[simp] theorem loadReg_cmdIdx (off : Nat) (s : State) : (loadReg off s).cmdIdx = s.cmdIdx := rfl
@[simp] theorem loadReg_cmdArg (off : Nat) (s : State) : (loadReg off s).cmdArg = s.cmdArg := rfl
@[simp] theorem loadReg_data (off : Nat) (s : State) : (loadReg off s).data = s.data := rfl
@[simp] theorem loadReg_bufAddr (off : Nat) (s : State) : (loadReg off s).bufAddr = s.bufAddr := rfl
@[simp] theorem loadReg_resp0 (off : Nat) (s : State) : (loadReg off s).resp0 = s.resp0 := rfl
@[simp] theorem loadReg_resp1 (off : Nat) (s : State) : (loadReg off s).resp1 = s.resp1 := rfl
@[simp] theorem loadReg_dresp (off : Nat) (s : State) : (loadReg off s).dresp = s.dresp := rfl
@[simp] theorem loadReg_crc7 (off : Nat) (s : State) : (loadReg off s).crc7 = s.crc7 := rfl
@[simp] theorem loadReg_crc16 (off : Nat) (s : State) : (loadReg off s).crc16 = s.crc16 := rfl
@[simp] theorem loadReg_bus (off : Nat) (s : State) : (loadReg off s).bus = s.bus := rfl
@[simp] theorem loadReg_faultCode (off : Nat) (s : State) : (loadReg off s).faultCode = s.faultCode := rfl
@[simp] theorem loadReg_cont (off : Nat) (s : State) : (loadReg off s).cont = s.cont := rfl
@[simp] theorem loadReg_init (off : Nat) (s : State) : (loadReg off s).init = s.init := rfl
@[simp] theorem loadReg_wire (off : Nat) (s : State) : (loadReg off s).wire = s.wire := rfl
@[simp] theorem loadReg_mem (off : Nat) (s : State) : (loadReg off s).mem = s.mem := rfl
@[simp] theorem loadReg_params (off : Nat) (s : State) : (loadReg off s).params = s.params := rfl
@[simp] theorem loadReg_hostq (off : Nat) (s : State) : (loadReg off s).hostq = s.hostq := rfl
@[simp] theorem loadReg_card (off : Nat) (s : State) : (loadReg off s).card = s.card := rfl
@[simp] theorem loadReg_hostStores (off : Nat) (s : State) : (loadReg off s).hostStores = s.hostStores := rfl
@[simp] theorem loadReg_unordered (off : Nat) (s : State) : (loadReg off s).unordered = s.unordered := rfl
@[simp] theorem loadReg_engStores (off : Nat) (s : State) : (loadReg off s).engStores = s.engStores := rfl

@[simp] theorem hostBarrier_lat (s : State) : (hostBarrier s).lat = s.lat := rfl
@[simp] theorem hostBarrier_status (s : State) : (hostBarrier s).status = s.status := rfl
@[simp] theorem hostBarrier_config (s : State) : (hostBarrier s).config = s.config := rfl
@[simp] theorem hostBarrier_cmdIdx (s : State) : (hostBarrier s).cmdIdx = s.cmdIdx := rfl
@[simp] theorem hostBarrier_cmdArg (s : State) : (hostBarrier s).cmdArg = s.cmdArg := rfl
@[simp] theorem hostBarrier_data (s : State) : (hostBarrier s).data = s.data := rfl
@[simp] theorem hostBarrier_bufAddr (s : State) : (hostBarrier s).bufAddr = s.bufAddr := rfl
@[simp] theorem hostBarrier_resp0 (s : State) : (hostBarrier s).resp0 = s.resp0 := rfl
@[simp] theorem hostBarrier_resp1 (s : State) : (hostBarrier s).resp1 = s.resp1 := rfl
@[simp] theorem hostBarrier_dresp (s : State) : (hostBarrier s).dresp = s.dresp := rfl
@[simp] theorem hostBarrier_crc7 (s : State) : (hostBarrier s).crc7 = s.crc7 := rfl
@[simp] theorem hostBarrier_crc16 (s : State) : (hostBarrier s).crc16 = s.crc16 := rfl
@[simp] theorem hostBarrier_bus (s : State) : (hostBarrier s).bus = s.bus := rfl
@[simp] theorem hostBarrier_faultCode (s : State) : (hostBarrier s).faultCode = s.faultCode := rfl
@[simp] theorem hostBarrier_cont (s : State) : (hostBarrier s).cont = s.cont := rfl
@[simp] theorem hostBarrier_init (s : State) : (hostBarrier s).init = s.init := rfl
@[simp] theorem hostBarrier_wire (s : State) : (hostBarrier s).wire = s.wire := rfl
@[simp] theorem hostBarrier_mem (s : State) : (hostBarrier s).mem = s.mem := rfl
@[simp] theorem hostBarrier_params (s : State) : (hostBarrier s).params = s.params := rfl
@[simp] theorem hostBarrier_hostq (s : State) : (hostBarrier s).hostq = s.hostq := rfl
@[simp] theorem hostBarrier_rdata (s : State) : (hostBarrier s).rdata = s.rdata := rfl
@[simp] theorem hostBarrier_card (s : State) : (hostBarrier s).card = s.card := rfl
@[simp] theorem hostBarrier_draws (s : State) : (hostBarrier s).draws = s.draws := rfl
@[simp] theorem hostBarrier_unordered (s : State) : (hostBarrier s).unordered = s.unordered := rfl

end Sys2Proof.Laws
end

