-- ==== Sys2Proof/Laws/Ops.lean ====
section
/-! SUPPORT. What each shared operation can do, once each: chip-select, the Card's answer, the launch, raising a fault,
an Engine step, a token on the bus, a fetch. -/
namespace Sys2Proof.Laws
open Sys2Proof.Machine

/-! ### Chip-select and the exchange -/

/-- Chip-select reads as it was set. -/
@[simp] theorem setCs_cs (b : Bool) (s : State) : (setCs b s).bus.cs = b := by
  unfold setCs; split <;> simp_all

/-- A change of chip-select is on the wire, no change is not (R142). -/
theorem setCs_wire (b : Bool) (s : State) :
    (setCs b s).wire = if s.bus.cs = b then s.wire else s.wire ++ [.csChange b] := by
  unfold setCs; split <;> simp_all

/-- Chip-select set is the state with this one field and the wire changed. -/
theorem setCs_eq (b : Bool) (s : State) :
    setCs b s = { s with bus := { s.bus with cs := b }, wire := if s.bus.cs = b then s.wire else s.wire ++ [.csChange b] } := by
  unfold setCs
  split
  · rename_i h; subst h; rfl
  · rfl

@[simp] theorem setCs_busEn (b : Bool) (s : State) : (setCs b s).bus.busEn = s.bus.busEn := by
  unfold setCs; split <;> rfl
@[simp] theorem setCs_speedOp (b : Bool) (s : State) : (setCs b s).bus.speedOp = s.bus.speedOp := by
  unfold setCs; split <;> rfl
@[simp] theorem setCs_width32 (b : Bool) (s : State) : (setCs b s).bus.width32 = s.bus.width32 := by
  unfold setCs; split <;> rfl
@[simp] theorem setCs_level (b : Bool) (s : State) : (setCs b s).bus.level = s.bus.level := by
  unfold setCs; split <;> rfl

/-- The bus after BUS_ENABLE, BUS_DISABLE, INIT's start and failure, and a fault: only LEVEL is kept. -/
@[simp] theorem resetBus_bus (b : Bool) (s : State) :
    (resetBus b s).bus = { busEn := b, cs := false, speedOp := false, width32 := false, level := s.bus.level } := by
  simp [resetBus]

/-- The bus reset puts the release of chip-select on the wire. -/
theorem resetBus_wire (b : Bool) (s : State) :
    (resetBus b s).wire = if s.bus.cs = false then s.wire else s.wire ++ [.csChange false] := by
  simp [resetBus, setCs_wire]

/-- A scripted answer is the Card's answer. -/
theorem exchange_scripted (tx rx : Byte) (rest : List Byte) (s : State) (h : s.card = rx :: rest) :
    exchange tx s = (rx, { s with card := rest, wire := s.wire ++ [.exchange s.bus.cs s.bus.speedOp s.bus.level tx rx] }) := by
  simp [exchange, cardAnswer, h]

/-- An exchange appends its one event (R140). -/
theorem exchange_wire (tx : Byte) (s : State) :
    (exchange tx s).2.wire =
      s.wire ++ [.exchange s.bus.cs s.bus.speedOp s.bus.level tx (exchange tx s).1] := by
  unfold exchange cardAnswer; cases s.card <;> rfl

/-! ### The launch and the fault -/

/-- What an OPCODE write can do (R316). -/
theorem launchGate_cases (check : State → Option FaultCode) (go : State → State) (s : State) :
    (s.status.fault = true ∧ launchGate check go s = .next s) ∨
    (s.status.fault = false ∧ s.busy = true ∧ launchGate check go s = .next (raiseFault .opWhileBusy s)) ∨
    (s.status.fault = false ∧ s.busy = false ∧ ∃ code, check s = some code ∧
      launchGate check go s = .next (raiseFault code s)) ∨
    (s.status.fault = false ∧ s.busy = false ∧ check s = none ∧ launchGate check go s = .next (go s)) := by
  unfold launchGate
  cases h1 : s.status.fault
  · cases h2 : s.busy
    · cases h3 : check s with
      | none => exact .inr (.inr (.inr ⟨rfl, rfl, rfl, by simp⟩))
      | some code => exact .inr (.inr (.inl ⟨rfl, rfl, code, rfl, by simp⟩))
    · exact .inr (.inl ⟨rfl, rfl, by simp⟩)
  · exact .inl ⟨rfl, by simp⟩

/-- An OPCODE write that passes every check of R316. -/
theorem launchGate_go (check : State → Option FaultCode) (go : State → State) (s : State)
    (hf : s.status.fault = false) (hb : s.cont = .idle) (hc : check s = none) :
    launchGate check go s = .next (go s) := by
  simp [launchGate, hf, State.busy, hb, hc]

/-- The sequencer is idle exactly when BUSY = 0 (R51). -/
theorem busy_iff (s : State) : s.busy = true ↔ s.cont ≠ .idle := by
  unfold State.busy; cases s.cont <;> simp

/-- BUSY = 0 exactly when the sequencer is idle (R51). -/
theorem not_busy_iff (s : State) : s.busy = false ↔ s.cont = .idle := by
  unfold State.busy; cases s.cont <;> simp

/-- A second fault changes nothing (R321). -/
theorem raiseFault_sticky (code : FaultCode) (s : State) (h : s.status.fault = true) : raiseFault code s = s := by
  simp [raiseFault, h]

/-- The requirements that hold raise nothing (R313). -/
theorem missing_none (n : Needs) (s : State) (hb : n.bus = true → s.bus.busEn = true)
    (hr : n.ready = true → s.status.cardState = .ready) (hc : n.cs = true → s.bus.cs = true)
    (hm : n.buffer = true → bufferOk s = true) : missing n s = none := by
  unfold missing
  cases h1 : n.bus <;> cases h2 : n.ready <;> cases h3 : n.cs <;> cases h4 : n.buffer <;> simp_all

/-- An immediate operation whose requirements hold: launch, body and finish in one step (R317). -/
theorem launchImmediate_go {op : BitVec 5} {n : Needs} {body : State → State} {s : State} (hf : s.status.fault = false)
    (hb : s.cont = .idle) (hc : missing n s = none) :
    launchImmediate op n body s = .next (finishOk (body (latchOperands op s))) :=
  launchGate_go (missing n) (fun s => finishOk (body (latchOperands op s))) s hf hb hc

/-- A multi-step operation whose requirements hold: the launch actions and the start of its sequence (R314). -/
theorem launchSteps_go {op : BitVec 5} {n : Needs} {start : State → State} {s : State} (hf : s.status.fault = false)
    (hb : s.cont = .idle) (hc : missing n s = none) :
    launchSteps op n start s = .next (start (latchOperands op s)) :=
  launchGate_go (missing n) (fun s => start (latchOperands op s)) s hf hb hc

/-- A requirement that fails raises its fault (R313, R316). -/
theorem launchGate_check {check : State → Option FaultCode} {go : State → State} {s : State} {code : FaultCode}
    (hf : s.status.fault = false) (hb : s.cont = .idle) (hc : check s = some code) :
    launchGate check go s = .next (raiseFault code s) := by
  simp [launchGate, hf, State.busy, hb, hc]

/-- A fault raised with none recorded, field by field (R321). -/
theorem raiseFault_eq (code : FaultCode) (s : State) (h : s.status.fault = false) :
    raiseFault code s = { s with
      faultCode := code
      status := { s.status with fault := true, xfer := false, poll := false, cardState := .uninitialized }
      cont := .idle
      bus := { busEn := false, cs := false, speedOp := false, width32 := false, level := s.bus.level }
      init := { s.init with phase := .idle }
      wire := if s.bus.cs = false then s.wire else s.wire ++ [.csChange false]
      crc7 := (dropRunningCrc s).crc7, crc16 := (dropRunningCrc s).crc16, draws := (dropRunningCrc s).draws } := by
  unfold raiseFault dropRunningCrc
  rw [if_neg (by simp [h])]
  cases hb : s.busy <;> simp [resetBus, setCs_eq]

/-! ### The Engine -/

/-- What an Engine step can do: nothing when idle; a step with no exchange; or one exchange on an enabled bus with no
fault recorded (R11). -/
theorem engineStep_cases {s t : State} (h : engineStep s = .next t) :
    (s.cont = .idle ∧ t = s) ∨
    (s.cont ≠ .idle ∧ engineTx (enginePrepare s) = none ∧ t = engineQuiet (enginePrepare s)) ∨
    (s.cont ≠ .idle ∧ ∃ tx, engineTx (enginePrepare s) = some tx ∧ (enginePrepare s).status.fault = false ∧
      (enginePrepare s).bus.busEn = true ∧
      t = engineAbsorb tx (exchange tx (enginePrepare s)).1 (exchange tx (enginePrepare s)).2) := by
  unfold engineStep at h
  split at h
  · rename_i hb
    have hb := (busy_iff s).mp hb
    dsimp only at h
    split at h
    · rename_i he
      cases h
      exact .inr (.inl ⟨hb, he, rfl⟩)
    · rename_i tx he
      split at h
      · cases h
      · rename_i hf
        split at h
        · rename_i hu
          cases h
          exact .inr (.inr ⟨hb, tx, he, by simpa using hf, hu, rfl⟩)
        · cases h
  · rename_i hb
    cases h
    exact .inl ⟨(not_busy_iff s).mp (by simpa using hb), rfl⟩

/-- An Engine step with an exchange. -/
theorem engineStep_exchange {s : State} {tx : Byte} (hb : s.cont ≠ .idle) (he : engineTx (enginePrepare s) = some tx)
    (hf : (enginePrepare s).status.fault = false) (hu : (enginePrepare s).bus.busEn = true) :
    engineStep s =
      .next (engineAbsorb tx (exchange tx (enginePrepare s)).1 (exchange tx (enginePrepare s)).2) := by
  simp [engineStep, (busy_iff s).mpr hb, he, hf, hu]

/-- An Engine step with no exchange. -/
theorem engineStep_quiet {s : State} (hb : s.cont ≠ .idle) (he : engineTx (enginePrepare s) = none) :
    engineStep s = .next (engineQuiet (enginePrepare s)) := by
  simp [engineStep, (busy_iff s).mpr hb, he]

/-- With no operation running the Engine does nothing. -/
theorem engineStep_idle {s : State} (h : s.cont = .idle) : engineStep s = .next s := by
  simp [engineStep, State.busy, h]

/-- A token on the bus is an Engine step, with or without the byte as the Card's next answer (R120). -/
theorem tokenOnBus_cases (b : Byte) (s : State) :
    tokenOnBus b s = .next s ∨ tokenOnBus b s = engineStep s ∨ tokenOnBus b s = engineStep { s with card := b :: s.card } := by
  unfold tokenOnBus
  split
  · split
    · exact .inr (.inl rfl)
    · exact .inr (.inr rfl)
  · exact .inl rfl

/-! ### The Host -/

/-- A Host load of ordered bytes reads memory, least significant byte first, and leaves the state alone. -/
theorem loadBytes_ordered : ∀ (n a : Nat) (s : State), (∀ i, i < n → s.engStores.contains (a + i) = false) →
    (loadBytes n a s).2 = s
  | 0, _, _, _ => rfl
  | n + 1, a, s, h => by
    have h0 := h 0 (by omega)
    rw [loadBytes, if_neg (by simpa using h0)]
    exact loadBytes_ordered n (a + 1) s (fun i hi => by
      rw [show a + 1 + i = a + (i + 1) by omega]; exact h (i + 1) (by omega))

/-- A Host load only draws. -/
theorem loadBytes_draws : ∀ (n a : Nat) (s : State), ∃ d, (loadBytes n a s).2 = { s with draws := d }
  | 0, _, s => ⟨s.draws, rfl⟩
  | n + 1, a, s => by
    rw [loadBytes]
    split
    · obtain ⟨d, h⟩ := loadBytes_draws n (a + 1) { s with draws := s.draws + 1 }
      exact ⟨d, h⟩
    · exact loadBytes_draws n (a + 1) s

/-- A Host store changes memory and the ordering of its bytes, nothing else. -/
theorem storeBytes_eq : ∀ (bs : List Byte) (a : Nat) (s : State),
    storeBytes a bs s =
      { s with mem := (storeBytes a bs s).mem, hostStores := (storeBytes a bs s).hostStores,
               engStores := (storeBytes a bs s).engStores }
  | [], _, _ => rfl
  | b :: rest, a, s => by
    rw [storeBytes]
    exact storeBytes_eq rest (a + 1) _

end Sys2Proof.Laws
end

