-- ==== Sys2Proof/Laws/Engine.lean ====
section
/-! SUPPORT. What the Engine's operations leave alone, one lemma per field per operation, and which registers no Engine
step writes. -/
namespace Sys2Proof.Laws
open Sys2Proof.Machine

@[simp] theorem txnStart_lat (c : Caller) (s : State) : (txnStart c s).lat = s.lat := by cases c <;> simp [txnStart]
@[simp] theorem txnStart_status (c : Caller) (s : State) : (txnStart c s).status = s.status := by cases c <;> simp [txnStart]
@[simp] theorem txnStart_config (c : Caller) (s : State) : (txnStart c s).config = s.config := by cases c <;> simp [txnStart]
@[simp] theorem txnStart_cmdIdx (c : Caller) (s : State) : (txnStart c s).cmdIdx = s.cmdIdx := by cases c <;> simp [txnStart]
@[simp] theorem txnStart_cmdArg (c : Caller) (s : State) : (txnStart c s).cmdArg = s.cmdArg := by cases c <;> simp [txnStart]
@[simp] theorem txnStart_data (c : Caller) (s : State) : (txnStart c s).data = s.data := by cases c <;> simp [txnStart]
@[simp] theorem txnStart_bufAddr (c : Caller) (s : State) : (txnStart c s).bufAddr = s.bufAddr := by cases c <;> simp [txnStart]
@[simp] theorem txnStart_resp0 (c : Caller) (s : State) : (txnStart c s).resp0 = s.resp0 := by cases c <;> simp [txnStart]
@[simp] theorem txnStart_resp1 (c : Caller) (s : State) : (txnStart c s).resp1 = s.resp1 := by cases c <;> simp [txnStart]
@[simp] theorem txnStart_dresp (c : Caller) (s : State) : (txnStart c s).dresp = s.dresp := by cases c <;> simp [txnStart]
@[simp] theorem txnStart_crc16 (c : Caller) (s : State) : (txnStart c s).crc16 = s.crc16 := by cases c <;> simp [txnStart]
@[simp] theorem txnStart_faultCode (c : Caller) (s : State) : (txnStart c s).faultCode = s.faultCode := by cases c <;> simp [txnStart]
@[simp] theorem txnStart_cont (c : Caller) (s : State) : (txnStart c s).cont = s.cont := by cases c <;> simp [txnStart]
@[simp] theorem txnStart_mem (c : Caller) (s : State) : (txnStart c s).mem = s.mem := by cases c <;> simp [txnStart]
@[simp] theorem txnStart_params (c : Caller) (s : State) : (txnStart c s).params = s.params := by cases c <;> simp [txnStart]
@[simp] theorem txnStart_hostq (c : Caller) (s : State) : (txnStart c s).hostq = s.hostq := by cases c <;> simp [txnStart]
@[simp] theorem txnStart_rdata (c : Caller) (s : State) : (txnStart c s).rdata = s.rdata := by cases c <;> simp [txnStart]
@[simp] theorem txnStart_card (c : Caller) (s : State) : (txnStart c s).card = s.card := by cases c <;> simp [txnStart]
@[simp] theorem txnStart_draws (c : Caller) (s : State) : (txnStart c s).draws = s.draws := by cases c <;> simp [txnStart]
@[simp] theorem txnStart_hostStores (c : Caller) (s : State) : (txnStart c s).hostStores = s.hostStores := by cases c <;> simp [txnStart]
@[simp] theorem txnStart_unordered (c : Caller) (s : State) : (txnStart c s).unordered = s.unordered := by cases c <;> simp [txnStart]
@[simp] theorem txnStart_engStores (c : Caller) (s : State) : (txnStart c s).engStores = s.engStores := by cases c <;> simp [txnStart]
@[simp] theorem txnStart_seenStores (c : Caller) (s : State) : (txnStart c s).seenStores = s.seenStores := by cases c <;> simp [txnStart]

@[simp] theorem enginePrepare_lat (s : State) : (enginePrepare s).lat = s.lat := by
  unfold enginePrepare; split <;> (try split) <;> first | rfl | simp
@[simp] theorem enginePrepare_config (s : State) : (enginePrepare s).config = s.config := by
  unfold enginePrepare; split <;> (try split) <;> first | rfl | simp
@[simp] theorem enginePrepare_cmdIdx (s : State) : (enginePrepare s).cmdIdx = s.cmdIdx := by
  unfold enginePrepare; split <;> (try split) <;> first | rfl | simp
@[simp] theorem enginePrepare_cmdArg (s : State) : (enginePrepare s).cmdArg = s.cmdArg := by
  unfold enginePrepare; split <;> (try split) <;> first | rfl | simp
@[simp] theorem enginePrepare_data (s : State) : (enginePrepare s).data = s.data := by
  unfold enginePrepare; split <;> (try split) <;> first | rfl | simp
@[simp] theorem enginePrepare_bufAddr (s : State) : (enginePrepare s).bufAddr = s.bufAddr := by
  unfold enginePrepare; split <;> (try split) <;> first | rfl | simp
@[simp] theorem enginePrepare_resp0 (s : State) : (enginePrepare s).resp0 = s.resp0 := by
  unfold enginePrepare; split <;> (try split) <;> first | rfl | simp
@[simp] theorem enginePrepare_resp1 (s : State) : (enginePrepare s).resp1 = s.resp1 := by
  unfold enginePrepare; split <;> (try split) <;> first | rfl | simp
@[simp] theorem enginePrepare_dresp (s : State) : (enginePrepare s).dresp = s.dresp := by
  unfold enginePrepare; split <;> (try split) <;> first | rfl | simp
@[simp] theorem enginePrepare_crc16 (s : State) : (enginePrepare s).crc16 = s.crc16 := by
  unfold enginePrepare; split <;> (try split) <;> first | rfl | simp
@[simp] theorem enginePrepare_faultCode (s : State) : (enginePrepare s).faultCode = s.faultCode := by
  unfold enginePrepare; split <;> (try split) <;> first | rfl | simp
@[simp] theorem enginePrepare_cont (s : State) : (enginePrepare s).cont = s.cont := by
  unfold enginePrepare; split <;> (try split) <;> first | rfl | simp
@[simp] theorem enginePrepare_mem (s : State) : (enginePrepare s).mem = s.mem := by
  unfold enginePrepare; split <;> (try split) <;> first | rfl | simp
@[simp] theorem enginePrepare_params (s : State) : (enginePrepare s).params = s.params := by
  unfold enginePrepare; split <;> (try split) <;> first | rfl | simp
@[simp] theorem enginePrepare_hostq (s : State) : (enginePrepare s).hostq = s.hostq := by
  unfold enginePrepare; split <;> (try split) <;> first | rfl | simp
@[simp] theorem enginePrepare_rdata (s : State) : (enginePrepare s).rdata = s.rdata := by
  unfold enginePrepare; split <;> (try split) <;> first | rfl | simp
@[simp] theorem enginePrepare_card (s : State) : (enginePrepare s).card = s.card := by
  unfold enginePrepare; split <;> (try split) <;> first | rfl | simp
@[simp] theorem enginePrepare_draws (s : State) : (enginePrepare s).draws = s.draws := by
  unfold enginePrepare; split <;> (try split) <;> first | rfl | simp
@[simp] theorem enginePrepare_hostStores (s : State) : (enginePrepare s).hostStores = s.hostStores := by
  unfold enginePrepare; split <;> (try split) <;> first | rfl | simp
@[simp] theorem enginePrepare_unordered (s : State) : (enginePrepare s).unordered = s.unordered := by
  unfold enginePrepare; split <;> (try split) <;> first | rfl | simp
@[simp] theorem enginePrepare_engStores (s : State) : (enginePrepare s).engStores = s.engStores := by
  unfold enginePrepare; split <;> (try split) <;> first | rfl | simp
@[simp] theorem enginePrepare_seenStores (s : State) : (enginePrepare s).seenStores = s.seenStores := by
  unfold enginePrepare; split <;> (try split) <;> first | rfl | simp

@[simp] theorem cmdSendFinish_lat (st : TxnStatus) (r1 : Byte) (tl : Option Word) (s : State) : (cmdSendFinish st r1 tl s).lat = s.lat := by cases st <;> simp [cmdSendFinish]
@[simp] theorem cmdSendFinish_config (st : TxnStatus) (r1 : Byte) (tl : Option Word) (s : State) : (cmdSendFinish st r1 tl s).config = s.config := by cases st <;> simp [cmdSendFinish]
@[simp] theorem cmdSendFinish_cmdIdx (st : TxnStatus) (r1 : Byte) (tl : Option Word) (s : State) : (cmdSendFinish st r1 tl s).cmdIdx = s.cmdIdx := by cases st <;> simp [cmdSendFinish]
@[simp] theorem cmdSendFinish_cmdArg (st : TxnStatus) (r1 : Byte) (tl : Option Word) (s : State) : (cmdSendFinish st r1 tl s).cmdArg = s.cmdArg := by cases st <;> simp [cmdSendFinish]
@[simp] theorem cmdSendFinish_data (st : TxnStatus) (r1 : Byte) (tl : Option Word) (s : State) : (cmdSendFinish st r1 tl s).data = s.data := by cases st <;> simp [cmdSendFinish]
@[simp] theorem cmdSendFinish_bufAddr (st : TxnStatus) (r1 : Byte) (tl : Option Word) (s : State) : (cmdSendFinish st r1 tl s).bufAddr = s.bufAddr := by cases st <;> simp [cmdSendFinish]
@[simp] theorem cmdSendFinish_dresp (st : TxnStatus) (r1 : Byte) (tl : Option Word) (s : State) : (cmdSendFinish st r1 tl s).dresp = s.dresp := by cases st <;> simp [cmdSendFinish]
@[simp] theorem cmdSendFinish_crc7 (st : TxnStatus) (r1 : Byte) (tl : Option Word) (s : State) : (cmdSendFinish st r1 tl s).crc7 = s.crc7 := by cases st <;> simp [cmdSendFinish]
@[simp] theorem cmdSendFinish_crc16 (st : TxnStatus) (r1 : Byte) (tl : Option Word) (s : State) : (cmdSendFinish st r1 tl s).crc16 = s.crc16 := by cases st <;> simp [cmdSendFinish]
@[simp] theorem cmdSendFinish_faultCode (st : TxnStatus) (r1 : Byte) (tl : Option Word) (s : State) : (cmdSendFinish st r1 tl s).faultCode = s.faultCode := by cases st <;> simp [cmdSendFinish]
@[simp] theorem cmdSendFinish_init (st : TxnStatus) (r1 : Byte) (tl : Option Word) (s : State) : (cmdSendFinish st r1 tl s).init = s.init := by cases st <;> simp [cmdSendFinish]
@[simp] theorem cmdSendFinish_mem (st : TxnStatus) (r1 : Byte) (tl : Option Word) (s : State) : (cmdSendFinish st r1 tl s).mem = s.mem := by cases st <;> simp [cmdSendFinish]
@[simp] theorem cmdSendFinish_params (st : TxnStatus) (r1 : Byte) (tl : Option Word) (s : State) : (cmdSendFinish st r1 tl s).params = s.params := by cases st <;> simp [cmdSendFinish]
@[simp] theorem cmdSendFinish_hostq (st : TxnStatus) (r1 : Byte) (tl : Option Word) (s : State) : (cmdSendFinish st r1 tl s).hostq = s.hostq := by cases st <;> simp [cmdSendFinish]
@[simp] theorem cmdSendFinish_rdata (st : TxnStatus) (r1 : Byte) (tl : Option Word) (s : State) : (cmdSendFinish st r1 tl s).rdata = s.rdata := by cases st <;> simp [cmdSendFinish]
@[simp] theorem cmdSendFinish_card (st : TxnStatus) (r1 : Byte) (tl : Option Word) (s : State) : (cmdSendFinish st r1 tl s).card = s.card := by cases st <;> simp [cmdSendFinish]
@[simp] theorem cmdSendFinish_draws (st : TxnStatus) (r1 : Byte) (tl : Option Word) (s : State) : (cmdSendFinish st r1 tl s).draws = s.draws := by cases st <;> simp [cmdSendFinish]
@[simp] theorem cmdSendFinish_hostStores (st : TxnStatus) (r1 : Byte) (tl : Option Word) (s : State) : (cmdSendFinish st r1 tl s).hostStores = s.hostStores := by cases st <;> simp [cmdSendFinish]
@[simp] theorem cmdSendFinish_unordered (st : TxnStatus) (r1 : Byte) (tl : Option Word) (s : State) : (cmdSendFinish st r1 tl s).unordered = s.unordered := by cases st <;> simp [cmdSendFinish]
@[simp] theorem cmdSendFinish_engStores (st : TxnStatus) (r1 : Byte) (tl : Option Word) (s : State) : (cmdSendFinish st r1 tl s).engStores = s.engStores := by cases st <;> simp [cmdSendFinish]
@[simp] theorem cmdSendFinish_seenStores (st : TxnStatus) (r1 : Byte) (tl : Option Word) (s : State) : (cmdSendFinish st r1 tl s).seenStores = s.seenStores := by cases st <;> simp [cmdSendFinish]

@[simp] theorem txnReturn_lat (c : Caller) (st : TxnStatus) (r1 : Byte) (tl : Option Word) (s : State) : (txnReturn c st r1 tl s).lat = s.lat := by
  cases c <;> simp [txnReturn]
@[simp] theorem txnReturn_config (c : Caller) (st : TxnStatus) (r1 : Byte) (tl : Option Word) (s : State) : (txnReturn c st r1 tl s).config = s.config := by
  cases c <;> simp [txnReturn]
@[simp] theorem txnReturn_cmdIdx (c : Caller) (st : TxnStatus) (r1 : Byte) (tl : Option Word) (s : State) : (txnReturn c st r1 tl s).cmdIdx = s.cmdIdx := by
  cases c <;> simp [txnReturn]
@[simp] theorem txnReturn_cmdArg (c : Caller) (st : TxnStatus) (r1 : Byte) (tl : Option Word) (s : State) : (txnReturn c st r1 tl s).cmdArg = s.cmdArg := by
  cases c <;> simp [txnReturn]
@[simp] theorem txnReturn_data (c : Caller) (st : TxnStatus) (r1 : Byte) (tl : Option Word) (s : State) : (txnReturn c st r1 tl s).data = s.data := by
  cases c <;> simp [txnReturn]
@[simp] theorem txnReturn_bufAddr (c : Caller) (st : TxnStatus) (r1 : Byte) (tl : Option Word) (s : State) : (txnReturn c st r1 tl s).bufAddr = s.bufAddr := by
  cases c <;> simp [txnReturn]
@[simp] theorem txnReturn_dresp (c : Caller) (st : TxnStatus) (r1 : Byte) (tl : Option Word) (s : State) : (txnReturn c st r1 tl s).dresp = s.dresp := by
  cases c <;> simp [txnReturn]
@[simp] theorem txnReturn_crc7 (c : Caller) (st : TxnStatus) (r1 : Byte) (tl : Option Word) (s : State) : (txnReturn c st r1 tl s).crc7 = s.crc7 := by
  cases c <;> simp [txnReturn]
@[simp] theorem txnReturn_crc16 (c : Caller) (st : TxnStatus) (r1 : Byte) (tl : Option Word) (s : State) : (txnReturn c st r1 tl s).crc16 = s.crc16 := by
  cases c <;> simp [txnReturn]
@[simp] theorem txnReturn_faultCode (c : Caller) (st : TxnStatus) (r1 : Byte) (tl : Option Word) (s : State) : (txnReturn c st r1 tl s).faultCode = s.faultCode := by
  cases c <;> simp [txnReturn]
@[simp] theorem txnReturn_init (c : Caller) (st : TxnStatus) (r1 : Byte) (tl : Option Word) (s : State) : (txnReturn c st r1 tl s).init = s.init := by
  cases c <;> simp [txnReturn]
@[simp] theorem txnReturn_mem (c : Caller) (st : TxnStatus) (r1 : Byte) (tl : Option Word) (s : State) : (txnReturn c st r1 tl s).mem = s.mem := by
  cases c <;> simp [txnReturn]
@[simp] theorem txnReturn_params (c : Caller) (st : TxnStatus) (r1 : Byte) (tl : Option Word) (s : State) : (txnReturn c st r1 tl s).params = s.params := by
  cases c <;> simp [txnReturn]
@[simp] theorem txnReturn_hostq (c : Caller) (st : TxnStatus) (r1 : Byte) (tl : Option Word) (s : State) : (txnReturn c st r1 tl s).hostq = s.hostq := by
  cases c <;> simp [txnReturn]
@[simp] theorem txnReturn_rdata (c : Caller) (st : TxnStatus) (r1 : Byte) (tl : Option Word) (s : State) : (txnReturn c st r1 tl s).rdata = s.rdata := by
  cases c <;> simp [txnReturn]
@[simp] theorem txnReturn_card (c : Caller) (st : TxnStatus) (r1 : Byte) (tl : Option Word) (s : State) : (txnReturn c st r1 tl s).card = s.card := by
  cases c <;> simp [txnReturn]
@[simp] theorem txnReturn_draws (c : Caller) (st : TxnStatus) (r1 : Byte) (tl : Option Word) (s : State) : (txnReturn c st r1 tl s).draws = s.draws := by
  cases c <;> simp [txnReturn]
@[simp] theorem txnReturn_hostStores (c : Caller) (st : TxnStatus) (r1 : Byte) (tl : Option Word) (s : State) : (txnReturn c st r1 tl s).hostStores = s.hostStores := by
  cases c <;> simp [txnReturn]
@[simp] theorem txnReturn_unordered (c : Caller) (st : TxnStatus) (r1 : Byte) (tl : Option Word) (s : State) : (txnReturn c st r1 tl s).unordered = s.unordered := by
  cases c <;> simp [txnReturn]
@[simp] theorem txnReturn_engStores (c : Caller) (st : TxnStatus) (r1 : Byte) (tl : Option Word) (s : State) : (txnReturn c st r1 tl s).engStores = s.engStores := by
  cases c <;> simp [txnReturn]
@[simp] theorem txnReturn_seenStores (c : Caller) (st : TxnStatus) (r1 : Byte) (tl : Option Word) (s : State) : (txnReturn c st r1 tl s).seenStores = s.seenStores := by
  cases c <;> simp [txnReturn]

@[simp] theorem txnAfterR1_lat (c : Caller) (r1 : Byte) (s : State) : (txnAfterR1 c r1 s).lat = s.lat := by
  unfold txnAfterR1; split <;> (try split) <;> simp
@[simp] theorem txnAfterR1_config (c : Caller) (r1 : Byte) (s : State) : (txnAfterR1 c r1 s).config = s.config := by
  unfold txnAfterR1; split <;> (try split) <;> simp
@[simp] theorem txnAfterR1_cmdIdx (c : Caller) (r1 : Byte) (s : State) : (txnAfterR1 c r1 s).cmdIdx = s.cmdIdx := by
  unfold txnAfterR1; split <;> (try split) <;> simp
@[simp] theorem txnAfterR1_cmdArg (c : Caller) (r1 : Byte) (s : State) : (txnAfterR1 c r1 s).cmdArg = s.cmdArg := by
  unfold txnAfterR1; split <;> (try split) <;> simp
@[simp] theorem txnAfterR1_data (c : Caller) (r1 : Byte) (s : State) : (txnAfterR1 c r1 s).data = s.data := by
  unfold txnAfterR1; split <;> (try split) <;> simp
@[simp] theorem txnAfterR1_bufAddr (c : Caller) (r1 : Byte) (s : State) : (txnAfterR1 c r1 s).bufAddr = s.bufAddr := by
  unfold txnAfterR1; split <;> (try split) <;> simp
@[simp] theorem txnAfterR1_dresp (c : Caller) (r1 : Byte) (s : State) : (txnAfterR1 c r1 s).dresp = s.dresp := by
  unfold txnAfterR1; split <;> (try split) <;> simp
@[simp] theorem txnAfterR1_crc7 (c : Caller) (r1 : Byte) (s : State) : (txnAfterR1 c r1 s).crc7 = s.crc7 := by
  unfold txnAfterR1; split <;> (try split) <;> simp
@[simp] theorem txnAfterR1_crc16 (c : Caller) (r1 : Byte) (s : State) : (txnAfterR1 c r1 s).crc16 = s.crc16 := by
  unfold txnAfterR1; split <;> (try split) <;> simp
@[simp] theorem txnAfterR1_faultCode (c : Caller) (r1 : Byte) (s : State) : (txnAfterR1 c r1 s).faultCode = s.faultCode := by
  unfold txnAfterR1; split <;> (try split) <;> simp
@[simp] theorem txnAfterR1_init (c : Caller) (r1 : Byte) (s : State) : (txnAfterR1 c r1 s).init = s.init := by
  unfold txnAfterR1; split <;> (try split) <;> simp
@[simp] theorem txnAfterR1_mem (c : Caller) (r1 : Byte) (s : State) : (txnAfterR1 c r1 s).mem = s.mem := by
  unfold txnAfterR1; split <;> (try split) <;> simp
@[simp] theorem txnAfterR1_params (c : Caller) (r1 : Byte) (s : State) : (txnAfterR1 c r1 s).params = s.params := by
  unfold txnAfterR1; split <;> (try split) <;> simp
@[simp] theorem txnAfterR1_hostq (c : Caller) (r1 : Byte) (s : State) : (txnAfterR1 c r1 s).hostq = s.hostq := by
  unfold txnAfterR1; split <;> (try split) <;> simp
@[simp] theorem txnAfterR1_rdata (c : Caller) (r1 : Byte) (s : State) : (txnAfterR1 c r1 s).rdata = s.rdata := by
  unfold txnAfterR1; split <;> (try split) <;> simp
@[simp] theorem txnAfterR1_card (c : Caller) (r1 : Byte) (s : State) : (txnAfterR1 c r1 s).card = s.card := by
  unfold txnAfterR1; split <;> (try split) <;> simp
@[simp] theorem txnAfterR1_draws (c : Caller) (r1 : Byte) (s : State) : (txnAfterR1 c r1 s).draws = s.draws := by
  unfold txnAfterR1; split <;> (try split) <;> simp
@[simp] theorem txnAfterR1_hostStores (c : Caller) (r1 : Byte) (s : State) : (txnAfterR1 c r1 s).hostStores = s.hostStores := by
  unfold txnAfterR1; split <;> (try split) <;> simp
@[simp] theorem txnAfterR1_unordered (c : Caller) (r1 : Byte) (s : State) : (txnAfterR1 c r1 s).unordered = s.unordered := by
  unfold txnAfterR1; split <;> (try split) <;> simp
@[simp] theorem txnAfterR1_engStores (c : Caller) (r1 : Byte) (s : State) : (txnAfterR1 c r1 s).engStores = s.engStores := by
  unfold txnAfterR1; split <;> (try split) <;> simp
@[simp] theorem txnAfterR1_seenStores (c : Caller) (r1 : Byte) (s : State) : (txnAfterR1 c r1 s).seenStores = s.seenStores := by
  unfold txnAfterR1; split <;> (try split) <;> simp

@[simp] theorem busyReturn_lat (u : BusyUser) (r : Bool) (s : State) : (busyReturn u r s).lat = s.lat := by
  cases u <;> simp only [busyReturn] <;> (try split) <;> simp
@[simp] theorem busyReturn_config (u : BusyUser) (r : Bool) (s : State) : (busyReturn u r s).config = s.config := by
  cases u <;> simp only [busyReturn] <;> (try split) <;> simp
@[simp] theorem busyReturn_cmdIdx (u : BusyUser) (r : Bool) (s : State) : (busyReturn u r s).cmdIdx = s.cmdIdx := by
  cases u <;> simp only [busyReturn] <;> (try split) <;> simp
@[simp] theorem busyReturn_cmdArg (u : BusyUser) (r : Bool) (s : State) : (busyReturn u r s).cmdArg = s.cmdArg := by
  cases u <;> simp only [busyReturn] <;> (try split) <;> simp
@[simp] theorem busyReturn_data (u : BusyUser) (r : Bool) (s : State) : (busyReturn u r s).data = s.data := by
  cases u <;> simp only [busyReturn] <;> (try split) <;> simp
@[simp] theorem busyReturn_bufAddr (u : BusyUser) (r : Bool) (s : State) : (busyReturn u r s).bufAddr = s.bufAddr := by
  cases u <;> simp only [busyReturn] <;> (try split) <;> simp
@[simp] theorem busyReturn_dresp (u : BusyUser) (r : Bool) (s : State) : (busyReturn u r s).dresp = s.dresp := by
  cases u <;> simp only [busyReturn] <;> (try split) <;> simp
@[simp] theorem busyReturn_crc7 (u : BusyUser) (r : Bool) (s : State) : (busyReturn u r s).crc7 = s.crc7 := by
  cases u <;> simp only [busyReturn] <;> (try split) <;> simp
@[simp] theorem busyReturn_crc16 (u : BusyUser) (r : Bool) (s : State) : (busyReturn u r s).crc16 = s.crc16 := by
  cases u <;> simp only [busyReturn] <;> (try split) <;> simp
@[simp] theorem busyReturn_faultCode (u : BusyUser) (r : Bool) (s : State) : (busyReturn u r s).faultCode = s.faultCode := by
  cases u <;> simp only [busyReturn] <;> (try split) <;> simp
@[simp] theorem busyReturn_init (u : BusyUser) (r : Bool) (s : State) : (busyReturn u r s).init = s.init := by
  cases u <;> simp only [busyReturn] <;> (try split) <;> simp
@[simp] theorem busyReturn_mem (u : BusyUser) (r : Bool) (s : State) : (busyReturn u r s).mem = s.mem := by
  cases u <;> simp only [busyReturn] <;> (try split) <;> simp
@[simp] theorem busyReturn_params (u : BusyUser) (r : Bool) (s : State) : (busyReturn u r s).params = s.params := by
  cases u <;> simp only [busyReturn] <;> (try split) <;> simp
@[simp] theorem busyReturn_hostq (u : BusyUser) (r : Bool) (s : State) : (busyReturn u r s).hostq = s.hostq := by
  cases u <;> simp only [busyReturn] <;> (try split) <;> simp
@[simp] theorem busyReturn_rdata (u : BusyUser) (r : Bool) (s : State) : (busyReturn u r s).rdata = s.rdata := by
  cases u <;> simp only [busyReturn] <;> (try split) <;> simp
@[simp] theorem busyReturn_card (u : BusyUser) (r : Bool) (s : State) : (busyReturn u r s).card = s.card := by
  cases u <;> simp only [busyReturn] <;> (try split) <;> simp
@[simp] theorem busyReturn_draws (u : BusyUser) (r : Bool) (s : State) : (busyReturn u r s).draws = s.draws := by
  cases u <;> simp only [busyReturn] <;> (try split) <;> simp
@[simp] theorem busyReturn_hostStores (u : BusyUser) (r : Bool) (s : State) : (busyReturn u r s).hostStores = s.hostStores := by
  cases u <;> simp only [busyReturn] <;> (try split) <;> simp
@[simp] theorem busyReturn_unordered (u : BusyUser) (r : Bool) (s : State) : (busyReturn u r s).unordered = s.unordered := by
  cases u <;> simp only [busyReturn] <;> (try split) <;> simp
@[simp] theorem busyReturn_engStores (u : BusyUser) (r : Bool) (s : State) : (busyReturn u r s).engStores = s.engStores := by
  cases u <;> simp only [busyReturn] <;> (try split) <;> simp
@[simp] theorem busyReturn_seenStores (u : BusyUser) (r : Bool) (s : State) : (busyReturn u r s).seenStores = s.seenStores := by
  cases u <;> simp only [busyReturn] <;> (try split) <;> simp

@[simp] theorem initRetry_lat (l : Nat) (e : ErrCode) (m : InitCmd) (p : Pending) (s : State) : (initRetry l e m p s).lat = s.lat := by
  unfold initRetry; split <;> simp
@[simp] theorem initRetry_config (l : Nat) (e : ErrCode) (m : InitCmd) (p : Pending) (s : State) : (initRetry l e m p s).config = s.config := by
  unfold initRetry; split <;> simp
@[simp] theorem initRetry_cmdIdx (l : Nat) (e : ErrCode) (m : InitCmd) (p : Pending) (s : State) : (initRetry l e m p s).cmdIdx = s.cmdIdx := by
  unfold initRetry; split <;> simp
@[simp] theorem initRetry_cmdArg (l : Nat) (e : ErrCode) (m : InitCmd) (p : Pending) (s : State) : (initRetry l e m p s).cmdArg = s.cmdArg := by
  unfold initRetry; split <;> simp
@[simp] theorem initRetry_data (l : Nat) (e : ErrCode) (m : InitCmd) (p : Pending) (s : State) : (initRetry l e m p s).data = s.data := by
  unfold initRetry; split <;> simp
@[simp] theorem initRetry_bufAddr (l : Nat) (e : ErrCode) (m : InitCmd) (p : Pending) (s : State) : (initRetry l e m p s).bufAddr = s.bufAddr := by
  unfold initRetry; split <;> simp
@[simp] theorem initRetry_dresp (l : Nat) (e : ErrCode) (m : InitCmd) (p : Pending) (s : State) : (initRetry l e m p s).dresp = s.dresp := by
  unfold initRetry; split <;> simp
@[simp] theorem initRetry_crc7 (l : Nat) (e : ErrCode) (m : InitCmd) (p : Pending) (s : State) : (initRetry l e m p s).crc7 = s.crc7 := by
  unfold initRetry; split <;> simp
@[simp] theorem initRetry_crc16 (l : Nat) (e : ErrCode) (m : InitCmd) (p : Pending) (s : State) : (initRetry l e m p s).crc16 = s.crc16 := by
  unfold initRetry; split <;> simp
@[simp] theorem initRetry_faultCode (l : Nat) (e : ErrCode) (m : InitCmd) (p : Pending) (s : State) : (initRetry l e m p s).faultCode = s.faultCode := by
  unfold initRetry; split <;> simp
@[simp] theorem initRetry_mem (l : Nat) (e : ErrCode) (m : InitCmd) (p : Pending) (s : State) : (initRetry l e m p s).mem = s.mem := by
  unfold initRetry; split <;> simp
@[simp] theorem initRetry_params (l : Nat) (e : ErrCode) (m : InitCmd) (p : Pending) (s : State) : (initRetry l e m p s).params = s.params := by
  unfold initRetry; split <;> simp
@[simp] theorem initRetry_hostq (l : Nat) (e : ErrCode) (m : InitCmd) (p : Pending) (s : State) : (initRetry l e m p s).hostq = s.hostq := by
  unfold initRetry; split <;> simp
@[simp] theorem initRetry_rdata (l : Nat) (e : ErrCode) (m : InitCmd) (p : Pending) (s : State) : (initRetry l e m p s).rdata = s.rdata := by
  unfold initRetry; split <;> simp
@[simp] theorem initRetry_card (l : Nat) (e : ErrCode) (m : InitCmd) (p : Pending) (s : State) : (initRetry l e m p s).card = s.card := by
  unfold initRetry; split <;> simp
@[simp] theorem initRetry_draws (l : Nat) (e : ErrCode) (m : InitCmd) (p : Pending) (s : State) : (initRetry l e m p s).draws = s.draws := by
  unfold initRetry; split <;> simp
@[simp] theorem initRetry_hostStores (l : Nat) (e : ErrCode) (m : InitCmd) (p : Pending) (s : State) : (initRetry l e m p s).hostStores = s.hostStores := by
  unfold initRetry; split <;> simp
@[simp] theorem initRetry_unordered (l : Nat) (e : ErrCode) (m : InitCmd) (p : Pending) (s : State) : (initRetry l e m p s).unordered = s.unordered := by
  unfold initRetry; split <;> simp
@[simp] theorem initRetry_engStores (l : Nat) (e : ErrCode) (m : InitCmd) (p : Pending) (s : State) : (initRetry l e m p s).engStores = s.engStores := by
  unfold initRetry; split <;> simp
@[simp] theorem initRetry_seenStores (l : Nat) (e : ErrCode) (m : InitCmd) (p : Pending) (s : State) : (initRetry l e m p s).seenStores = s.seenStores := by
  unfold initRetry; split <;> simp

@[simp] theorem initConclude_lat (m : InitCmd) (st : TxnStatus) (r1 : Byte) (tl : Option Word) (p : Pending) (s : State) : (initConclude m st r1 tl p s).lat = s.lat := by
  cases m <;> simp only [initConclude] <;> (repeat' split) <;> simp
@[simp] theorem initConclude_config (m : InitCmd) (st : TxnStatus) (r1 : Byte) (tl : Option Word) (p : Pending) (s : State) : (initConclude m st r1 tl p s).config = s.config := by
  cases m <;> simp only [initConclude] <;> (repeat' split) <;> simp
@[simp] theorem initConclude_cmdIdx (m : InitCmd) (st : TxnStatus) (r1 : Byte) (tl : Option Word) (p : Pending) (s : State) : (initConclude m st r1 tl p s).cmdIdx = s.cmdIdx := by
  cases m <;> simp only [initConclude] <;> (repeat' split) <;> simp
@[simp] theorem initConclude_cmdArg (m : InitCmd) (st : TxnStatus) (r1 : Byte) (tl : Option Word) (p : Pending) (s : State) : (initConclude m st r1 tl p s).cmdArg = s.cmdArg := by
  cases m <;> simp only [initConclude] <;> (repeat' split) <;> simp
@[simp] theorem initConclude_data (m : InitCmd) (st : TxnStatus) (r1 : Byte) (tl : Option Word) (p : Pending) (s : State) : (initConclude m st r1 tl p s).data = s.data := by
  cases m <;> simp only [initConclude] <;> (repeat' split) <;> simp
@[simp] theorem initConclude_bufAddr (m : InitCmd) (st : TxnStatus) (r1 : Byte) (tl : Option Word) (p : Pending) (s : State) : (initConclude m st r1 tl p s).bufAddr = s.bufAddr := by
  cases m <;> simp only [initConclude] <;> (repeat' split) <;> simp
@[simp] theorem initConclude_dresp (m : InitCmd) (st : TxnStatus) (r1 : Byte) (tl : Option Word) (p : Pending) (s : State) : (initConclude m st r1 tl p s).dresp = s.dresp := by
  cases m <;> simp only [initConclude] <;> (repeat' split) <;> simp
@[simp] theorem initConclude_crc7 (m : InitCmd) (st : TxnStatus) (r1 : Byte) (tl : Option Word) (p : Pending) (s : State) : (initConclude m st r1 tl p s).crc7 = s.crc7 := by
  cases m <;> simp only [initConclude] <;> (repeat' split) <;> simp
@[simp] theorem initConclude_crc16 (m : InitCmd) (st : TxnStatus) (r1 : Byte) (tl : Option Word) (p : Pending) (s : State) : (initConclude m st r1 tl p s).crc16 = s.crc16 := by
  cases m <;> simp only [initConclude] <;> (repeat' split) <;> simp
@[simp] theorem initConclude_faultCode (m : InitCmd) (st : TxnStatus) (r1 : Byte) (tl : Option Word) (p : Pending) (s : State) : (initConclude m st r1 tl p s).faultCode = s.faultCode := by
  cases m <;> simp only [initConclude] <;> (repeat' split) <;> simp
@[simp] theorem initConclude_mem (m : InitCmd) (st : TxnStatus) (r1 : Byte) (tl : Option Word) (p : Pending) (s : State) : (initConclude m st r1 tl p s).mem = s.mem := by
  cases m <;> simp only [initConclude] <;> (repeat' split) <;> simp
@[simp] theorem initConclude_params (m : InitCmd) (st : TxnStatus) (r1 : Byte) (tl : Option Word) (p : Pending) (s : State) : (initConclude m st r1 tl p s).params = s.params := by
  cases m <;> simp only [initConclude] <;> (repeat' split) <;> simp
@[simp] theorem initConclude_hostq (m : InitCmd) (st : TxnStatus) (r1 : Byte) (tl : Option Word) (p : Pending) (s : State) : (initConclude m st r1 tl p s).hostq = s.hostq := by
  cases m <;> simp only [initConclude] <;> (repeat' split) <;> simp
@[simp] theorem initConclude_rdata (m : InitCmd) (st : TxnStatus) (r1 : Byte) (tl : Option Word) (p : Pending) (s : State) : (initConclude m st r1 tl p s).rdata = s.rdata := by
  cases m <;> simp only [initConclude] <;> (repeat' split) <;> simp
@[simp] theorem initConclude_card (m : InitCmd) (st : TxnStatus) (r1 : Byte) (tl : Option Word) (p : Pending) (s : State) : (initConclude m st r1 tl p s).card = s.card := by
  cases m <;> simp only [initConclude] <;> (repeat' split) <;> simp
@[simp] theorem initConclude_draws (m : InitCmd) (st : TxnStatus) (r1 : Byte) (tl : Option Word) (p : Pending) (s : State) : (initConclude m st r1 tl p s).draws = s.draws := by
  cases m <;> simp only [initConclude] <;> (repeat' split) <;> simp
@[simp] theorem initConclude_hostStores (m : InitCmd) (st : TxnStatus) (r1 : Byte) (tl : Option Word) (p : Pending) (s : State) : (initConclude m st r1 tl p s).hostStores = s.hostStores := by
  cases m <;> simp only [initConclude] <;> (repeat' split) <;> simp
@[simp] theorem initConclude_unordered (m : InitCmd) (st : TxnStatus) (r1 : Byte) (tl : Option Word) (p : Pending) (s : State) : (initConclude m st r1 tl p s).unordered = s.unordered := by
  cases m <;> simp only [initConclude] <;> (repeat' split) <;> simp
@[simp] theorem initConclude_engStores (m : InitCmd) (st : TxnStatus) (r1 : Byte) (tl : Option Word) (p : Pending) (s : State) : (initConclude m st r1 tl p s).engStores = s.engStores := by
  cases m <;> simp only [initConclude] <;> (repeat' split) <;> simp
@[simp] theorem initConclude_seenStores (m : InitCmd) (st : TxnStatus) (r1 : Byte) (tl : Option Word) (p : Pending) (s : State) : (initConclude m st r1 tl p s).seenStores = s.seenStores := by
  cases m <;> simp only [initConclude] <;> (repeat' split) <;> simp

@[simp] theorem afterDataByte_lat (i : Fin 512) (more : Fin 512 → Cont) (next : Cont) (s : State) : (afterDataByte i more next s).lat = s.lat := by
  unfold afterDataByte; split <;> simp
@[simp] theorem afterDataByte_config (i : Fin 512) (more : Fin 512 → Cont) (next : Cont) (s : State) : (afterDataByte i more next s).config = s.config := by
  unfold afterDataByte; split <;> simp
@[simp] theorem afterDataByte_cmdIdx (i : Fin 512) (more : Fin 512 → Cont) (next : Cont) (s : State) : (afterDataByte i more next s).cmdIdx = s.cmdIdx := by
  unfold afterDataByte; split <;> simp
@[simp] theorem afterDataByte_cmdArg (i : Fin 512) (more : Fin 512 → Cont) (next : Cont) (s : State) : (afterDataByte i more next s).cmdArg = s.cmdArg := by
  unfold afterDataByte; split <;> simp
@[simp] theorem afterDataByte_data (i : Fin 512) (more : Fin 512 → Cont) (next : Cont) (s : State) : (afterDataByte i more next s).data = s.data := by
  unfold afterDataByte; split <;> simp
@[simp] theorem afterDataByte_bufAddr (i : Fin 512) (more : Fin 512 → Cont) (next : Cont) (s : State) : (afterDataByte i more next s).bufAddr = s.bufAddr := by
  unfold afterDataByte; split <;> simp
@[simp] theorem afterDataByte_resp0 (i : Fin 512) (more : Fin 512 → Cont) (next : Cont) (s : State) : (afterDataByte i more next s).resp0 = s.resp0 := by
  unfold afterDataByte; split <;> simp
@[simp] theorem afterDataByte_resp1 (i : Fin 512) (more : Fin 512 → Cont) (next : Cont) (s : State) : (afterDataByte i more next s).resp1 = s.resp1 := by
  unfold afterDataByte; split <;> simp
@[simp] theorem afterDataByte_dresp (i : Fin 512) (more : Fin 512 → Cont) (next : Cont) (s : State) : (afterDataByte i more next s).dresp = s.dresp := by
  unfold afterDataByte; split <;> simp
@[simp] theorem afterDataByte_crc7 (i : Fin 512) (more : Fin 512 → Cont) (next : Cont) (s : State) : (afterDataByte i more next s).crc7 = s.crc7 := by
  unfold afterDataByte; split <;> simp
@[simp] theorem afterDataByte_crc16 (i : Fin 512) (more : Fin 512 → Cont) (next : Cont) (s : State) : (afterDataByte i more next s).crc16 = s.crc16 := by
  unfold afterDataByte; split <;> simp
@[simp] theorem afterDataByte_faultCode (i : Fin 512) (more : Fin 512 → Cont) (next : Cont) (s : State) : (afterDataByte i more next s).faultCode = s.faultCode := by
  unfold afterDataByte; split <;> simp
@[simp] theorem afterDataByte_init (i : Fin 512) (more : Fin 512 → Cont) (next : Cont) (s : State) : (afterDataByte i more next s).init = s.init := by
  unfold afterDataByte; split <;> simp
@[simp] theorem afterDataByte_wire (i : Fin 512) (more : Fin 512 → Cont) (next : Cont) (s : State) : (afterDataByte i more next s).wire = s.wire := by
  unfold afterDataByte; split <;> simp
@[simp] theorem afterDataByte_mem (i : Fin 512) (more : Fin 512 → Cont) (next : Cont) (s : State) : (afterDataByte i more next s).mem = s.mem := by
  unfold afterDataByte; split <;> simp
@[simp] theorem afterDataByte_params (i : Fin 512) (more : Fin 512 → Cont) (next : Cont) (s : State) : (afterDataByte i more next s).params = s.params := by
  unfold afterDataByte; split <;> simp
@[simp] theorem afterDataByte_hostq (i : Fin 512) (more : Fin 512 → Cont) (next : Cont) (s : State) : (afterDataByte i more next s).hostq = s.hostq := by
  unfold afterDataByte; split <;> simp
@[simp] theorem afterDataByte_rdata (i : Fin 512) (more : Fin 512 → Cont) (next : Cont) (s : State) : (afterDataByte i more next s).rdata = s.rdata := by
  unfold afterDataByte; split <;> simp
@[simp] theorem afterDataByte_card (i : Fin 512) (more : Fin 512 → Cont) (next : Cont) (s : State) : (afterDataByte i more next s).card = s.card := by
  unfold afterDataByte; split <;> simp
@[simp] theorem afterDataByte_draws (i : Fin 512) (more : Fin 512 → Cont) (next : Cont) (s : State) : (afterDataByte i more next s).draws = s.draws := by
  unfold afterDataByte; split <;> simp
@[simp] theorem afterDataByte_hostStores (i : Fin 512) (more : Fin 512 → Cont) (next : Cont) (s : State) : (afterDataByte i more next s).hostStores = s.hostStores := by
  unfold afterDataByte; split <;> simp
@[simp] theorem afterDataByte_unordered (i : Fin 512) (more : Fin 512 → Cont) (next : Cont) (s : State) : (afterDataByte i more next s).unordered = s.unordered := by
  unfold afterDataByte; split <;> simp
@[simp] theorem afterDataByte_engStores (i : Fin 512) (more : Fin 512 → Cont) (next : Cont) (s : State) : (afterDataByte i more next s).engStores = s.engStores := by
  unfold afterDataByte; split <;> simp
@[simp] theorem afterDataByte_seenStores (i : Fin 512) (more : Fin 512 → Cont) (next : Cont) (s : State) : (afterDataByte i more next s).seenStores = s.seenStores := by
  unfold afterDataByte; split <;> simp

@[simp] theorem engineAbsorb_lat (tx rx : Byte) (s : State) : (engineAbsorb tx rx s).lat = s.lat := by
  unfold engineAbsorb; split <;> (try dsimp only) <;> (repeat' split) <;> simp
@[simp] theorem engineAbsorb_config (tx rx : Byte) (s : State) : (engineAbsorb tx rx s).config = s.config := by
  unfold engineAbsorb; split <;> (try dsimp only) <;> (repeat' split) <;> simp
@[simp] theorem engineAbsorb_cmdIdx (tx rx : Byte) (s : State) : (engineAbsorb tx rx s).cmdIdx = s.cmdIdx := by
  unfold engineAbsorb; split <;> (try dsimp only) <;> (repeat' split) <;> simp
@[simp] theorem engineAbsorb_cmdArg (tx rx : Byte) (s : State) : (engineAbsorb tx rx s).cmdArg = s.cmdArg := by
  unfold engineAbsorb; split <;> (try dsimp only) <;> (repeat' split) <;> simp
@[simp] theorem engineAbsorb_bufAddr (tx rx : Byte) (s : State) : (engineAbsorb tx rx s).bufAddr = s.bufAddr := by
  unfold engineAbsorb; split <;> (try dsimp only) <;> (repeat' split) <;> simp
@[simp] theorem engineAbsorb_crc7 (tx rx : Byte) (s : State) : (engineAbsorb tx rx s).crc7 = s.crc7 := by
  unfold engineAbsorb; split <;> (try dsimp only) <;> (repeat' split) <;> simp
@[simp] theorem engineAbsorb_faultCode (tx rx : Byte) (s : State) : (engineAbsorb tx rx s).faultCode = s.faultCode := by
  unfold engineAbsorb; split <;> (try dsimp only) <;> (repeat' split) <;> simp
@[simp] theorem engineAbsorb_params (tx rx : Byte) (s : State) : (engineAbsorb tx rx s).params = s.params := by
  unfold engineAbsorb; split <;> (try dsimp only) <;> (repeat' split) <;> simp
@[simp] theorem engineAbsorb_hostq (tx rx : Byte) (s : State) : (engineAbsorb tx rx s).hostq = s.hostq := by
  unfold engineAbsorb; split <;> (try dsimp only) <;> (repeat' split) <;> simp
@[simp] theorem engineAbsorb_rdata (tx rx : Byte) (s : State) : (engineAbsorb tx rx s).rdata = s.rdata := by
  unfold engineAbsorb; split <;> (try dsimp only) <;> (repeat' split) <;> simp
@[simp] theorem engineAbsorb_card (tx rx : Byte) (s : State) : (engineAbsorb tx rx s).card = s.card := by
  unfold engineAbsorb; split <;> (try dsimp only) <;> (repeat' split) <;> simp
@[simp] theorem engineAbsorb_hostStores (tx rx : Byte) (s : State) : (engineAbsorb tx rx s).hostStores = s.hostStores := by
  unfold engineAbsorb; split <;> (try dsimp only) <;> (repeat' split) <;> simp
@[simp] theorem engineAbsorb_unordered (tx rx : Byte) (s : State) : (engineAbsorb tx rx s).unordered = s.unordered := by
  unfold engineAbsorb; split <;> (try dsimp only) <;> (repeat' split) <;> simp

@[simp] theorem engineQuiet_lat (s : State) : (engineQuiet s).lat = s.lat := by
  unfold engineQuiet; split <;> simp
@[simp] theorem engineQuiet_config (s : State) : (engineQuiet s).config = s.config := by
  unfold engineQuiet; split <;> simp
@[simp] theorem engineQuiet_cmdIdx (s : State) : (engineQuiet s).cmdIdx = s.cmdIdx := by
  unfold engineQuiet; split <;> simp
@[simp] theorem engineQuiet_cmdArg (s : State) : (engineQuiet s).cmdArg = s.cmdArg := by
  unfold engineQuiet; split <;> simp
@[simp] theorem engineQuiet_data (s : State) : (engineQuiet s).data = s.data := by
  unfold engineQuiet; split <;> simp
@[simp] theorem engineQuiet_bufAddr (s : State) : (engineQuiet s).bufAddr = s.bufAddr := by
  unfold engineQuiet; split <;> simp
@[simp] theorem engineQuiet_resp0 (s : State) : (engineQuiet s).resp0 = s.resp0 := by
  unfold engineQuiet; split <;> simp
@[simp] theorem engineQuiet_resp1 (s : State) : (engineQuiet s).resp1 = s.resp1 := by
  unfold engineQuiet; split <;> simp
@[simp] theorem engineQuiet_dresp (s : State) : (engineQuiet s).dresp = s.dresp := by
  unfold engineQuiet; split <;> simp
@[simp] theorem engineQuiet_crc7 (s : State) : (engineQuiet s).crc7 = s.crc7 := by
  unfold engineQuiet; split <;> simp
@[simp] theorem engineQuiet_crc16 (s : State) : (engineQuiet s).crc16 = s.crc16 := by
  unfold engineQuiet; split <;> simp
@[simp] theorem engineQuiet_faultCode (s : State) : (engineQuiet s).faultCode = s.faultCode := by
  unfold engineQuiet; split <;> simp
@[simp] theorem engineQuiet_wire (s : State) : (engineQuiet s).wire = s.wire := by
  unfold engineQuiet; split <;> simp
@[simp] theorem engineQuiet_mem (s : State) : (engineQuiet s).mem = s.mem := by
  unfold engineQuiet; split <;> simp
@[simp] theorem engineQuiet_params (s : State) : (engineQuiet s).params = s.params := by
  unfold engineQuiet; split <;> simp
@[simp] theorem engineQuiet_hostq (s : State) : (engineQuiet s).hostq = s.hostq := by
  unfold engineQuiet; split <;> simp
@[simp] theorem engineQuiet_rdata (s : State) : (engineQuiet s).rdata = s.rdata := by
  unfold engineQuiet; split <;> simp
@[simp] theorem engineQuiet_card (s : State) : (engineQuiet s).card = s.card := by
  unfold engineQuiet; split <;> simp
@[simp] theorem engineQuiet_draws (s : State) : (engineQuiet s).draws = s.draws := by
  unfold engineQuiet; split <;> simp
@[simp] theorem engineQuiet_hostStores (s : State) : (engineQuiet s).hostStores = s.hostStores := by
  unfold engineQuiet; split <;> simp
@[simp] theorem engineQuiet_unordered (s : State) : (engineQuiet s).unordered = s.unordered := by
  unfold engineQuiet; split <;> simp
@[simp] theorem engineQuiet_engStores (s : State) : (engineQuiet s).engStores = s.engStores := by
  unfold engineQuiet; split <;> simp
@[simp] theorem engineQuiet_seenStores (s : State) : (engineQuiet s).seenStores = s.seenStores := by
  unfold engineQuiet; split <;> simp

/-- What no Engine step writes: the operand registers, the latch, the fault code, the parameters, the Host's side. -/
theorem engineStep_keeps {s t : State} (h : engineStep s = .next t) :
    t.lat = s.lat ∧ t.config = s.config ∧ t.cmdIdx = s.cmdIdx ∧ t.cmdArg = s.cmdArg ∧ t.bufAddr = s.bufAddr ∧
    t.faultCode = s.faultCode ∧ t.params = s.params ∧ t.hostq = s.hostq ∧ t.rdata = s.rdata ∧
    t.hostStores = s.hostStores ∧ t.unordered = s.unordered := by
  obtain ⟨_, rfl⟩ | ⟨_, _, rfl⟩ | ⟨_, tx, _, _, _, rfl⟩ := engineStep_cases h <;> simp

/-- The steps with no exchange: IDLE_CLOCKS with count 0 and INIT phase f (R11). -/
theorem engineTx_none {s : State} (h : engineTx (enginePrepare s) = none) :
    s.cont = .idle ∨ s.cont = .idleClocks 0 ∨ ∃ pend, s.cont = .speedUp pend := by
  cases hc : s.cont <;> simp only [engineTx, enginePrepare_cont, hc] at h <;> simp_all

end Sys2Proof.Laws
end

