-- ==== Sys2Proof/Laws/Bound.lean ====
section
/-! SUPPORT. The bound on an operation's steps (R372) through the shared operations: a finish leaves none, a
transaction returns within its caller's cost, a phase of INIT concludes within its own. -/
namespace Sys2Proof.Laws
open Sys2Proof.Machine

set_option linter.unusedSimpArgs false

/-- The limits of the parameters' domain that the bound needs (R13, R274). -/
structure Dom (p : Params) : Prop where
  a : 10 ≤ p.idleClockBytes
  ncr : 0 < p.ncrLimit
  bf : 0 < p.busyFastSamples
  bp : 0 < p.busyPollLimit
  tk : 0 < p.tokenPollLimit
  dr : 0 < p.drespLimit
  c0 : 0 < p.cmd0Limit
  c8 : 0 < p.cmd8Limit
  c41 : 0 < p.acmd41Limit
  c58 : 0 < p.cmd58Limit
  c16 : 0 < p.cmd16Limit

/-- Parameters in their domain have them. -/
theorem dom_of_inDomain {p : Params} (h : p.inDomain = true) : Dom p := by
  simp only [Params.inDomain, Bool.and_eq_true, decide_eq_true_eq] at h
  obtain ⟨h1,h2,h3,h4,h5,h6,h7,h8,h9,h10,h11,h12,_⟩ := h
  exact ⟨h1,h2,h3,h4,h5,h6,h7,h9,h10,h11,h12⟩

/-- One attempt of those that are left. -/
theorem attempts_step {l a : Nat} (k : Nat) (h : a < l) : (l - a) * k = (l - (a + 1)) * k + k := by
  obtain ⟨d, rfl⟩ : ∃ d, l = a + 1 + d := ⟨l - (a+1), by omega⟩
  have h1 : a + 1 + d - a = d + 1 := by omega
  have h2 : a + 1 + d - (a + 1) = d := by omega
  rw [h1, h2, Nat.succ_mul]

/-- No step is left after a finish. -/
@[simp] theorem stepsLeft_finishOk (s : State) : stepsLeft (finishOk s) = 0 := rfl
@[simp] theorem stepsLeft_finishErr (c : ErrCode) (s : State) : stepsLeft (finishErr c s) = 0 := by simp [stepsLeft, finishErr]
@[simp] theorem stepsLeft_initFail (c : ErrCode) (p : Pending) (s : State) : stepsLeft (initFail c p s) = 0 := by simp [initFail]

/-- A transaction returns within its caller's cost. -/
theorem stepsLeft_txnReturn (c : Caller) (st : TxnStatus) (r : Byte) (tl : Option Word) (s : State) :
    stepsLeft (txnReturn c st r tl s) ≤ costReturn s.params s.init.attempt c := by
  cases c
  · cases st <;> simp [txnReturn, cmdSendFinish]
  · simp [txnReturn, stepsLeft, costReturn]

/-- A busy poll within a transaction ends within its caller's cost. -/
theorem stepsLeft_busyReturn (c : Caller) (st : Byte) (r : Bool) (s : State) :
    stepsLeft (busyReturn (.txn c st) r s) ≤ costReturn s.params s.init.attempt c := by
  unfold busyReturn
  exact le_trans (stepsLeft_txnReturn _ _ _ _ _) (by cases c <;> simp [costReturn])

/-- The cost of an INIT transaction before its first byte. -/
theorem stepsLeft_initFrame (m : InitCmd) (p : Pending) (s : State) (h : s.cont = .frame (.init m p) 0) :
    stepsLeft s = 6 + s.params.ncrLimit + tailCost s.params m.rtype + 1
      + costAfter s.params (if m.countsAttempt then s.init.attempt + 1 else s.init.attempt) m := by
  have : m.idx ≠ 12 := by cases m <;> decide
  have e : stepsLeft s = (6 - 0) + (if m.idx = 12 then 1 else 0) + s.params.ncrLimit + tailCost s.params m.rtype
      + (1 + costAfter s.params (if m.countsAttempt then s.init.attempt + 1 else s.init.attempt) m) := by
    unfold stepsLeft; rw [h]; rfl
  rw [e, if_neg this]; omega

/-- A phase of INIT concludes within the cost of what follows it (R275 to R281). -/
theorem stepsLeft_initConclude (m : InitCmd) (st : TxnStatus) (r : Byte) (tl : Option Word)
    (p : Pending) (s : State) (h : Dom s.params) :
    stepsLeft (initConclude m st r tl p s) ≤ costAfter s.params s.init.attempt m := by
  obtain ⟨d1,d2,d3,d4,d5,d6,d7,d8,d9,d10,d11⟩ := h
  have T1 : costT1 s.params = 6 + s.params.ncrLimit + 1 := rfl
  have T7 : costT7 s.params = costT1 s.params + 4 := rfl
  have A : ∀ (q : State) m, stepsLeft (initAgain m p q) = 6 + q.params.ncrLimit + tailCost q.params m.rtype + 1 +
    costAfter q.params (if m.countsAttempt then q.init.attempt + 1 else q.init.attempt) m :=
    fun q m => stepsLeft_initFrame m p _ rfl
  have E : ∀ (q : State) m, stepsLeft (initEnter m p q) = 6 + q.params.ncrLimit + tailCost q.params m.rtype + 1 +
    costAfter q.params (if m.countsAttempt then 1 else 0) m :=
    fun q m => stepsLeft_initFrame m p _ rfl
  have sC := attempts_step (costT7 s.params) d8
  have sE := attempts_step (2 * costT1 s.params) d9
  have sG := attempts_step (costT7 s.params) d10
  have sH := attempts_step (costT1 s.params) d11
  cases m <;> simp only [initConclude, initRetry]
  · split
    · simp only [E, setCardState, InitCmd.countsAttempt, InitCmd.rtype, tailCost, costAfter, costB, costC, if_true,
      if_false, Bool.false_eq_true, initAgain_init, Nat.zero_add] at *; omega
    · generalize (if st = .timeout then s.init.absent + 1 else 0) = n
      split
      · simp
      · split
        · simp
        · rename_i hh
          have := attempts_step (costT1 s.params) (Nat.lt_of_not_le hh)
          simp only [A, InitCmd.countsAttempt, InitCmd.rtype, tailCost, costAfter, costB, if_true, if_false,
            Bool.false_eq_true, initAgain_init, Nat.zero_add] at *; omega
  · split
    · simp only [E, setCardState, InitCmd.countsAttempt, InitCmd.rtype, tailCost, costAfter, costC, costD, if_true,
      if_false, Bool.false_eq_true, initAgain_init, Nat.zero_add] at *; omega
    · split
      · simp
      · rename_i hh
        have := attempts_step (costT7 s.params) (Nat.lt_of_not_le hh)
        simp only [A, InitCmd.countsAttempt, InitCmd.rtype, tailCost, costAfter, costC, if_true, if_false,
          Bool.false_eq_true, initAgain_init, Nat.zero_add] at *; omega
  · split
    · simp only [E, InitCmd.countsAttempt, InitCmd.rtype, tailCost, costAfter, costE, if_true, if_false,
      Bool.false_eq_true, initAgain_init, Nat.zero_add] at *; omega
    · simp
  · split
    · simp only [A, InitCmd.countsAttempt, InitCmd.rtype, tailCost, costAfter, costE, if_true, if_false,
      Bool.false_eq_true, initAgain_init, Nat.zero_add] at *; omega
    · split
      · simp
      · rename_i hh
        have := attempts_step (2 * costT1 s.params) (Nat.lt_of_not_le hh)
        simp only [A, InitCmd.countsAttempt, InitCmd.rtype, tailCost, costAfter, costE, if_true, if_false,
          Bool.false_eq_true, initAgain_init, Nat.zero_add] at *; omega
  · split
    · simp [stepsLeft, costAfter, costE, costF]
    · split
      · simp
      · rename_i hh
        have := attempts_step (2 * costT1 s.params) (Nat.lt_of_not_le hh)
        simp only [A, InitCmd.countsAttempt, InitCmd.rtype, tailCost, costAfter, costE, if_true, if_false,
          Bool.false_eq_true, initAgain_init, Nat.zero_add] at *; omega
  · split
    · simp only [E, InitCmd.countsAttempt, InitCmd.rtype, tailCost, costAfter, costG, costH, if_true, if_false,
      Bool.false_eq_true, initAgain_init, Nat.zero_add] at *; omega
    · split
      · simp
      · rename_i hh
        have := attempts_step (costT7 s.params) (Nat.lt_of_not_le hh)
        simp only [A, InitCmd.countsAttempt, InitCmd.rtype, tailCost, costAfter, costG, if_true, if_false,
          Bool.false_eq_true, initAgain_init, Nat.zero_add] at *; omega
  · split
    · simp
    · split
      · simp
      · rename_i hh
        have := attempts_step (costT1 s.params) (Nat.lt_of_not_le hh)
        simp only [A, InitCmd.countsAttempt, InitCmd.rtype, tailCost, costAfter, costH, if_true, if_false,
          Bool.false_eq_true, initAgain_init, Nat.zero_add] at *; omega

end Sys2Proof.Laws
end

