-- ==== Sys2Proof/Laws/Decode.lean ====
section
/-! SUPPORT. Bytes and words: a word and a frame are their bytes put together, and the bytes of a word put together
from bytes are those bytes. -/
namespace Sys2Proof.Laws

/-- A 32-bit word is its four bytes put together. -/
theorem word_of_bytes (v : Word) :
    v.extractLsb' 24 8 ++ v.extractLsb' 16 8 ++ v.extractLsb' 8 8 ++ v.extractLsb' 0 8 = v := by
  apply BitVec.eq_of_getLsbD_eq
  intro j hj
  simp only [BitVec.getLsbD_append, BitVec.getLsbD_extractLsb']
  split
  · simp [*]
  · split
    · rw [decide_eq_true (by omega), Bool.true_and]; congr 1; omega
    · split
      · rw [decide_eq_true (by omega), Bool.true_and]; congr 1; omega
      · rw [decide_eq_true (by omega), Bool.true_and]; congr 1; omega

/-- A 48-bit frame is its six bytes put together. -/
theorem frame_of_bytes (w : BitVec 48) :
    w.extractLsb' 40 8 ++ w.extractLsb' 32 8 ++ w.extractLsb' 24 8 ++ w.extractLsb' 16 8 ++ w.extractLsb' 8 8
      ++ w.extractLsb' 0 8 = w := by
  apply BitVec.eq_of_getLsbD_eq
  intro j hj
  simp only [BitVec.getLsbD_append, BitVec.getLsbD_extractLsb']
  split
  · simp [*]
  · split
    · rw [decide_eq_true (by omega), Bool.true_and]; congr 1; omega
    · split
      · rw [decide_eq_true (by omega), Bool.true_and]; congr 1; omega
      · split
        · rw [decide_eq_true (by omega), Bool.true_and]; congr 1; omega
        · split
          · rw [decide_eq_true (by omega), Bool.true_and]; congr 1; omega
          · rw [decide_eq_true (by omega), Bool.true_and]; congr 1; omega

/-- The decoder reads a word from its bytes. -/
theorem decode_wordBytes (v : Word) : decode (wordBytes v) = .ok (decodeOperation v) := by
  simp only [wordBytes, decode, word_of_bytes]

/-- The decoder reads a frame from its bytes. -/
theorem decode_frameWordBytes (w : BitVec 48) : decode (frameWordBytes w) = decodeFrame w := by
  simp only [frameWordBytes, decode, frame_of_bytes]

/-- The fields of a frame put together are its fields (R110). -/
theorem frame_fields (idx : BitVec 6) (arg : Word) (crc : BitVec 7) :
    (0b01#2 ++ idx ++ arg ++ crc ++ 1#1).extractLsb' 46 2 = 0b01#2 ∧
    (0b01#2 ++ idx ++ arg ++ crc ++ 1#1).extractLsb' 0 1 = 1#1 ∧
    (0b01#2 ++ idx ++ arg ++ crc ++ 1#1).extractLsb' 40 6 = idx ∧
    (0b01#2 ++ idx ++ arg ++ crc ++ 1#1).extractLsb' 8 32 = arg ∧
    (0b01#2 ++ idx ++ arg ++ crc ++ 1#1).extractLsb' 1 7 = crc := by
  refine ⟨?_, ?_, ?_, ?_, ?_⟩ <;> apply BitVec.eq_of_getLsbD_eq <;> intro j hj <;>
    simp only [BitVec.getLsbD_append, BitVec.getLsbD_extractLsb', hj, decide_true, Bool.true_and]
  · rw [if_neg (by omega), if_neg (by omega), if_neg (by omega), if_neg (by omega)]; congr 1; omega
  · rw [if_pos (by omega)]; congr 1; omega
  · rw [if_neg (by omega), if_neg (by omega), if_neg (by omega), if_pos (by omega)]; congr 1; omega
  · rw [if_neg (by omega), if_neg (by omega), if_pos (by omega)]; congr 1; omega
  · rw [if_neg (by omega), if_pos (by omega)]; congr 1; omega

end Sys2Proof.Laws
end

