-- ==== Sys2Proof/Laws/Memory.lean ====
section
/-! SUPPORT. The laws of system memory: a read after a write, the canonical form that every memory operation keeps, and
that memories in canonical form which read alike are equal. -/
namespace Sys2Proof.Laws
open Sys2Proof.Machine

/-- Canonical from a higher address is canonical from a lower one. -/
theorem wfFrom_mono {lo hi : Nat} (h : lo ≤ hi) : ∀ {m : Mem}, m.wfFrom hi = true → m.wfFrom lo = true
  | [], _ => rfl
  | (k, v) :: rest, w => by
    simp only [Mem.wfFrom, Bool.and_eq_true, decide_eq_true_eq] at w ⊢
    exact ⟨⟨by omega, w.1.2⟩, w.2⟩

/-- Below its first address a canonical memory reads as unlisted. -/
theorem read_below {a : Nat} : ∀ {lo : Nat} {m : Mem}, m.wfFrom lo = true → a < lo → m.read a = Mem.unlisted
  | _, [], _, _ => rfl
  | lo, (k, v) :: rest, w, h => by
    simp only [Mem.wfFrom, Bool.and_eq_true, decide_eq_true_eq] at w
    rw [Mem.read, if_neg (by omega)]
    exact read_below w.2 (by omega)

/-- A write leaves every other address alone. -/
theorem read_write_other {a c : Nat} (b : Byte) (h : c ≠ a) : ∀ m : Mem, (m.write a b).read c = m.read c
  | [] => by
    unfold Mem.write
    split <;> simp [Mem.read, Ne.symm h]
  | (k, v) :: rest => by
    unfold Mem.write
    split
    · split <;> simp [Mem.read, Ne.symm h]
    · split
      · rename_i h2
        subst h2
        split <;> simp [Mem.read, Ne.symm h]
      · simp only [Mem.read]
        rw [read_write_other b h rest]

/-- A write keeps the canonical form. -/
theorem write_wfFrom {a : Nat} (b : Byte) :
    ∀ {lo : Nat} {m : Mem}, m.wfFrom lo = true → lo ≤ a → (m.write a b).wfFrom lo = true
  | lo, [], _, h => by
    unfold Mem.write
    split <;> simp_all [Mem.wfFrom]
  | lo, (k, v) :: rest, w, h => by
    have w' := w
    simp only [Mem.wfFrom, Bool.and_eq_true, decide_eq_true_eq, bne_iff_ne] at w
    unfold Mem.write
    split
    · split
      · exact w'
      · rename_i h1 h2
        simp only [Mem.wfFrom, Bool.and_eq_true, decide_eq_true_eq, bne_iff_ne]
        exact ⟨⟨h, h2⟩, ⟨by omega, w.1.2⟩, w.2⟩
    · split
      · rename_i h1 h2
        split
        · exact wfFrom_mono (by omega) w.2
        · rename_i h3
          simp only [Mem.wfFrom, Bool.and_eq_true, decide_eq_true_eq, bne_iff_ne]
          exact ⟨⟨h, h3⟩, h2 ▸ w.2⟩
      · simp only [Mem.wfFrom, Bool.and_eq_true, decide_eq_true_eq, bne_iff_ne]
        exact ⟨w.1, write_wfFrom b w.2 (by omega)⟩

/-- A write keeps the canonical form. -/
theorem write_wf {m : Mem} (a : Nat) (b : Byte) (w : m.wf = true) : (m.write a b).wf = true :=
  write_wfFrom b w (Nat.zero_le a)

/-- A read after a write to the same address gives the byte written. -/
theorem read_write_sameFrom {a : Nat} (b : Byte) :
    ∀ {lo : Nat} {m : Mem}, m.wfFrom lo = true → lo ≤ a → (m.write a b).read a = b
  | lo, [], _, h => by
    unfold Mem.write
    split <;> simp_all [Mem.read]
  | lo, (k, v) :: rest, w, h => by
    simp only [Mem.wfFrom, Bool.and_eq_true, decide_eq_true_eq] at w
    unfold Mem.write
    split
    · split
      · rename_i h1 h2
        rw [Mem.read, if_neg (by omega), read_below w.2 (by omega), h2]
      · simp [Mem.read]
    · split
      · rename_i h1 h2
        split
        · rename_i h3
          rw [read_below w.2 (by omega), h3]
        · simp [Mem.read]
      · rename_i h1 h2
        rw [Mem.read, if_neg (Ne.symm h2)]
        exact read_write_sameFrom b w.2 (by omega)

/-- A read after a write to the same address gives the byte written. -/
theorem read_write_same {m : Mem} (a : Nat) (b : Byte) (w : m.wf = true) : (m.write a b).read a = b :=
  read_write_sameFrom b w (Nat.zero_le a)

/-- Memories in canonical form that read alike at every address are equal. -/
theorem mem_extFrom : ∀ {lo : Nat} {m n : Mem}, m.wfFrom lo = true → n.wfFrom lo = true →
    (∀ a, m.read a = n.read a) → m = n
  | _, [], [], _, _, _ => rfl
  | lo, [], (k, v) :: rest, _, w, h => by
    simp only [Mem.wfFrom, Bool.and_eq_true, decide_eq_true_eq, bne_iff_ne] at w
    exact absurd (by simpa [Mem.read] using (h k).symm) w.1.2
  | lo, (k, v) :: rest, [], w, _, h => by
    simp only [Mem.wfFrom, Bool.and_eq_true, decide_eq_true_eq, bne_iff_ne] at w
    exact absurd (by simpa [Mem.read] using h k) w.1.2
  | lo, (k, v) :: rest, (k', v') :: rest', w, w', h => by
    simp only [Mem.wfFrom, Bool.and_eq_true, decide_eq_true_eq, bne_iff_ne] at w w'
    obtain hlt | heq | hgt := Nat.lt_trichotomy k k'
    · have hk := h k
      rw [Mem.read, if_pos rfl, Mem.read, if_neg (by omega), read_below w'.2 (by omega)] at hk
      exact absurd hk w.1.2
    · subst heq
      have hk := h k
      rw [Mem.read, if_pos rfl, Mem.read, if_pos rfl] at hk
      subst hk
      rw [mem_extFrom w.2 w'.2 (fun a => by
        by_cases ha : a < k + 1
        · rw [read_below w.2 ha, read_below w'.2 ha]
        · have := h a
          rwa [Mem.read, if_neg (by omega), Mem.read, if_neg (by omega)] at this)]
    · have hk := h k'
      rw [Mem.read, if_neg (by omega), Mem.read, if_pos rfl, read_below w.2 (by omega)] at hk
      exact absurd hk.symm w'.1.2

/-- The memory at reset is in canonical form. -/
theorem reset_mem_wf : State.reset.mem.wf = true := rfl

/-- The Host's stored bytes keep the canonical form. -/
theorem storeBytes_mem_wf : ∀ (bs : List Byte) (a : Nat) (s : State), s.mem.wf = true →
    (storeBytes a bs s).mem.wf = true
  | [], _, _, w => w
  | b :: rest, a, _, w => storeBytes_mem_wf rest (a + 1) _ (write_wf a b w)

/-- The Engine's stored byte keeps the canonical form. -/
theorem engineStore_mem_wf (a : Nat) (b : Byte) (s : State) (w : s.mem.wf = true) :
    (engineStore a b s).mem.wf = true :=
  write_wf a b w

/-- A Host store changes no byte outside the bytes stored. -/
theorem storeBytes_read_other : ∀ (bs : List Byte) (a c : Nat) (s : State), (c < a ∨ a + bs.length ≤ c) →
    (storeBytes a bs s).mem.read c = s.mem.read c
  | [], _, _, _, _ => rfl
  | b :: rest, a, c, s, h => by
    have hl : (b :: rest).length = rest.length + 1 := rfl
    rw [storeBytes, storeBytes_read_other rest (a + 1) c _ (by omega)]
    exact read_write_other b (by omega) s.mem

/-- A Host store stores its bytes in increasing address order. -/
theorem storeBytes_read_stored (bs : List Byte) : ∀ (a i : Nat) (s : State) (h : i < bs.length), s.mem.wf = true →
    (storeBytes a bs s).mem.read (a + i) = bs[i] := by
  induction bs with
  | nil => intro _ i _ h; exact absurd h (by simp)
  | cons b rest ih =>
    intro a i s h w
    rw [storeBytes]
    cases i with
    | zero =>
      show (storeBytes (a + 1) rest _).mem.read a = b
      rw [storeBytes_read_other rest (a + 1) a _ (by omega)]
      exact read_write_same a b w
    | succ j =>
      rw [show a + (j + 1) = a + 1 + j by omega, ih (a + 1) j _ (by simpa using h) (write_wf a b w)]
      rfl

end Sys2Proof.Laws
end

