-- ==== Sys2Proof/Laws/Invariant.lean ====
section
/-! SUPPORT. The invariant through each shared operation: the two finishes, a fault, reset, a register write, the launch,
a move of the sequencer, the return of a transaction, INIT's conclusions, the end of the busy poll. -/
namespace Sys2Proof.Laws
open Sys2Proof.Machine

/-- Chip-select after one more event. -/
theorem csLevel_snoc (w : List WireEvent) (e : WireEvent) :
    csLevel (w ++ [e]) = (match e with | .csChange c => c | .exchange _ _ _ _ _ => csLevel w) := by
  cases e <;> simp [csLevel, List.foldl_append]

/-- The part of the invariant that does not depend on the sequencer, with no fault recorded. -/
structure Base (s : State) : Prop where
  nofault : s.status.fault = false
  nocode : s.faultCode = .none
  csNeedsBus : s.bus.busEn = false → s.bus.cs = false
  cardNeedsBus : s.bus.busEn = false → s.status.cardState = .uninitialized
  csWire : s.bus.cs = csLevel s.wire
  memWf : s.mem.wf = true
  domain : s.params.inDomain = true

/-- A running operation, at its start s0 of a step and now: what the step's exchange leaves alone. -/
structure Mid (s0 s : State) : Prop where
  base : Base s
  noerr : s.status.err = false
  noecode : s.status.errCode = .none
  nodone : s.status.done = false
  bus : s.bus.busEn = true
  lat : s.lat = s0.lat
  cont : s.cont = s0.cont
  params : s.params = s0.params

/-! ### What the invariant says in the two kinds of state -/

/-- No fault is recorded: the part that does not depend on the sequencer. -/
theorem inv_base_of_ok {s : State} (h : s.Inv) (hf : s.status.fault = false) : Base s := by
  have := h.faultCode
  simp only [hf, Bool.false_eq_true, false_iff, ne_eq, not_not] at this
  exact ⟨hf, this, h.csNeedsBus, h.cardNeedsBus, h.csWire, h.memWf, h.domain⟩

/-- While an operation runs no fault is recorded (R321). -/
theorem inv_base {s : State} (h : s.Inv) (hb : s.cont ≠ .idle) : Base s := by
  apply inv_base_of_ok h
  cases hf : s.status.fault
  · rfl
  · exact absurd (h.faultHalts hf).1 hb

/-- While an operation runs ERR, ERRCODE and DONE are 0 (R56, R314). -/
theorem inv_noerr {s : State} (h : s.Inv) (hb : s.cont ≠ .idle) :
    s.status.err = false ∧ s.status.errCode = .none ∧ s.status.done = false := by
  have h1 := h.busyClears hb
  have h2 := h.errCode
  simp only [h1.2, Bool.false_eq_true, false_iff, ne_eq, not_not] at h2
  exact ⟨h1.2, h2, h1.1⟩

/-- With no operation running XFER, POLL, WIDTH32 and PHASE are 0. -/
theorem inv_idle {s : State} (h : s.Inv) (hc : s.cont = .idle) :
    s.status.xfer = false ∧ s.status.poll = false ∧ s.bus.width32 = false ∧ s.init.phase = .idle := by
  have hx := h.xferOwns
  have hp := h.pollBusy
  have hw := h.widthWord
  have hph := h.phaseInit
  simp_all

/-! ### The bus -/

/-- An exchange keeps the part. -/
theorem base_exchange {s : State} (tx : Byte) (b : Base s) : Base (exchange tx s).2 := by
  obtain ⟨b1, b2, b3, b4, b5, b6, b7⟩ := b
  constructor <;> simp_all [exchange_wire, csLevel_snoc]

/-- Chip-select set on an enabled bus keeps the part. -/
theorem base_setCs {s : State} (c : Bool) (b : Base s) (hb : s.bus.busEn = true) : Base (setCs c s) := by
  obtain ⟨b1, b2, b3, b4, b5, b6, b7⟩ := b
  constructor <;> simp_all [setCs_wire]
  split <;> simp_all [csLevel_snoc]

/-- Chip-select released keeps the part. -/
theorem base_release {s : State} (b : Base s) : Base (setCs false s) := by
  obtain ⟨b1, b2, b3, b4, b5, b6, b7⟩ := b
  constructor <;> simp_all [setCs_wire]
  split <;> simp_all [csLevel_snoc]

/-- The bus enabled afresh keeps the part. -/
theorem base_enable {s : State} (b : Base s) : Base (resetBus true s) := by
  obtain ⟨b1, b2, b3, b4, b5, b6, b7⟩ := b
  constructor <;> simp_all [resetBus_wire]
  split <;> simp_all [csLevel_snoc]

/-- The bus disabled with no card session keeps the part. -/
theorem base_resetBus {s : State} (c : Bool) (b : Base s) (h : s.status.cardState = .uninitialized) :
    Base (resetBus c s) := by
  obtain ⟨b1, b2, b3, b4, b5, b6, b7⟩ := b
  constructor <;> simp_all [resetBus_wire]
  split <;> simp_all [csLevel_snoc]

/-- A transaction's set-up on an enabled bus keeps the part. -/
theorem base_txnStart {s : State} {c : Caller} (b : Base s) (hb : s.bus.busEn = true) : Base (txnStart c s) := by
  obtain ⟨b1, b2, b3, b4, b5, b6, b7⟩ := base_setCs true b hb
  cases c <;> exact ⟨b1, b2, b3, b4, b5, b6, b7⟩

/-- INIT's start keeps the part. -/
theorem base_initStart {s : State} (b : Base s) : Base (initStart s) := by
  obtain ⟨b1, b2, b3, b4, b5, b6, b7⟩ := b
  constructor <;> simp_all [Machine.initStart, resetBus_wire]
  split <;> simp_all [csLevel_snoc]

/-- An exchange within a step. -/
theorem mid_exchange {s0 s : State} (tx : Byte) (m : Mid s0 s) : Mid s0 (exchange tx s).2 := by
  obtain ⟨m1, m2, m3, m4, m5, m6, m7, m8⟩ := m
  exact ⟨base_exchange tx m1, by simpa, by simpa, by simpa, by simpa, by simpa, by simpa, by simpa⟩

/-- The set-up of a step leaves a running operation running. -/
theorem mid_prepare {s : State} (h : s.Inv) (hb : s.cont ≠ .idle) : Mid s (enginePrepare s) := by
  have B := inv_base h hb
  have N := inv_noerr h hb
  have hbus := h.busyHasBus hb
  by_cases hk : s.cont = .initClocks 0
  · simp only [enginePrepare, hk, if_true]
    exact ⟨base_initStart B, by simp [initStart, N], by simp [initStart, N], by simp [initStart, N], by simp [initStart],
      by simp, by simp, by simp⟩
  · have hbus : s.bus.busEn = true := by simpa [hk] using hbus
    have Q : Mid s s := ⟨B, N.1, N.2.1, N.2.2, hbus, rfl, rfl, rfl⟩
    have Q' := Q
    obtain ⟨⟨b1, b2, b3, b4, b5, b6, b7⟩, m2, m3, m4, m5, m6, m7, m8⟩ := Q
    unfold enginePrepare
    split <;> (try split) <;> try exact Q'
    all_goals try exact ⟨⟨b1, b2, b3, b4, b5, b6, b7⟩, m2, m3, m4, m5, m6, m7, m8⟩
    · exact ⟨base_txnStart B hbus, by simpa, by simpa, by simpa, by rename_i c k _ _; cases c <;> simpa [txnStart],
        by simp, by simp, by simp⟩
    · exact ⟨base_setCs _ B hbus, by simpa, by simpa, by simpa, by simpa, by simp, by simp, by simp⟩
    · rename_i h0; subst h0; exact absurd (by assumption) hk

/-! ### Finishes, faults, reset, the Host's writes -/

/-- `finish_ok` gives a state of the invariant (R318). -/
theorem inv_finishOk {s : State} (b : Base s) (p : s.init.phase = .idle) : (finishOk s).Inv := by
  obtain ⟨b1, b2, b3, b4, b5, b6, b7⟩ := b
  constructor <;> simp [finishOk, b1, b2, b6, b7, p]
  · exact b3
  · exact b4
  · exact b5

/-- `finish_err` with a code gives a state of the invariant (R319). -/
theorem inv_finishErr {s : State} {c : ErrCode} (hc : c ≠ .none) (b : Base s) (p : s.init.phase = .idle) :
    (finishErr c s).Inv := by
  obtain ⟨b1, b2, b3, b4, b5, b6, b7⟩ := b
  constructor <;> simp [finishErr, setCs_wire, b1, b2, b6, b7, p, hc]
  · intro h _; exact b4 h
  · split <;> simp_all [csLevel_snoc]

/-- A fault keeps the invariant (R321). -/
theorem inv_raiseFault {s : State} {c : FaultCode} (hc : c ≠ .none) (h : s.Inv) : (raiseFault c s).Inv := by
  unfold raiseFault
  split
  · exact h
  · rename_i hf
    obtain ⟨h1, h2, h3, h4, h5, h6, h7, h8, h9, h10, h11, h12, h13, h14, h15, h16, h17, h18, h19, h20, h21, h22⟩ := h
    constructor <;> simp [resetBus_wire, hc]
    · rw [h5]
    · split <;> simp_all [csLevel_snoc]
    · exact h19
    · exact h20

/-- The reset input gives a state of the invariant (R350). -/
theorem inv_resetBlock {s : State} (h : s.Inv) : (resetBlock s).Inv := by
  have h1 := h.memWf
  have h2 := h.domain
  constructor <;> simp [resetBlock, State.reset, Status.reset, BusCtl.reset, csLevel, h1, h2]

/-- A change of what only the Host sees keeps the invariant. -/
theorem inv_host {s t : State} (h : s.Inv) (e1 : t.lat = s.lat) (e2 : t.status = s.status) (e3 : t.bus = s.bus)
    (e4 : t.faultCode = s.faultCode) (e5 : t.init = s.init) (e6 : t.wire = s.wire) (e7 : t.mem.wf = true)
    (e8 : t.params = s.params) (e9 : t.cont = s.cont) (e10 : t.crc7 = s.crc7) : t.Inv := by
  obtain ⟨h1, h2, h3, h4, h5, h6, h7, h8, h9, h10, h11, h12, h13, h14, h15, h16, h17, h18, h19, h20, h21, h22⟩ := h
  constructor <;> simp only [e1, e2, e3, e4, e5, e6, e7, e8, e9, e10] <;> assumption

/-! ### The launch -/

/-- A requirement that fails names a fault. -/
theorem missing_ne {n : Needs} {s : State} {c : FaultCode} (h : missing n s = some c) : c ≠ .none := by
  unfold missing at h
  repeat (split at h; · cases h; decide)
  cases h

/-- No requirement fails: each of the row holds (R313). -/
theorem missing_none_iff {n : Needs} {s : State} (h : missing n s = none) :
    (n.bus = true → s.bus.busEn = true) ∧ (n.ready = true → s.status.cardState = .ready) ∧
    (n.cs = true → s.bus.cs = true) ∧ (n.buffer = true → bufferOk s = true) := by
  unfold missing at h
  split at h; · cases h
  split at h; · cases h
  split at h; · cases h
  split at h; · cases h
  simp_all

/-- An OPCODE write keeps the invariant where its launch does (R316). -/
theorem inv_launchGate {s t : State} {check : State → Option FaultCode} {go : State → State} (h : s.Inv)
    (hs : launchGate check go s = .next t) (hck : ∀ c, check s = some c → c ≠ .none)
    (hgo : s.status.fault = false → s.cont = .idle → check s = none → (go s).Inv) : t.Inv := by
  obtain ⟨_, e⟩ | ⟨_, _, e⟩ | ⟨_, _, c, hc, e⟩ | ⟨a, b, c, e⟩ := launchGate_cases check go s <;> rw [e] at hs <;> cases hs
  · exact h
  · exact inv_raiseFault (by decide) h
  · exact inv_raiseFault (hck c hc) h
  · exact hgo a ((not_busy_iff s).mp b) c

/-- An immediate operation keeps the invariant where its body keeps the part that does not depend on the sequencer. -/
theorem inv_launchImmediate {s t : State} {op : BitVec 5} {n : Needs} {body : State → State} (h : s.Inv)
    (hs : launchImmediate op n body s = .next t)
    (hbody : ∀ q : State, s.status.fault = false → s.cont = .idle → missing n s = none → Base q → q.init.phase = .idle →
      q.bus.busEn = s.bus.busEn → Base (body q) ∧ (body q).init.phase = .idle) : t.Inv := by
  refine inv_launchGate h hs (fun c hc => missing_ne hc) ?_
  intro hf hc hm
  obtain ⟨b1, b2, b3, b4, b5, b6, b7⟩ := inv_base_of_ok h hf
  have F := inv_idle h hc
  obtain ⟨B, P⟩ := hbody (latchOperands op s) hf hc hm ⟨b1, b2, b3, b4, b5, b6, b7⟩ F.2.2.2 rfl
  exact inv_finishOk B P

/-- A multi-step operation keeps the invariant where its start does. -/
theorem inv_launchSteps {s t : State} {op : BitVec 5} {n : Needs} {start : State → State} (h : s.Inv)
    (hs : launchSteps op n start s = .next t)
    (hgo : s.status.fault = false → s.cont = .idle → missing n s = none → (start (latchOperands op s)).Inv) : t.Inv :=
  inv_launchGate h hs (fun _ hc => missing_ne hc) hgo

/-- The start of an operation that owns no buffer. -/
theorem inv_start {s : State} {ct : Cont} {op : BitVec 5} (h : s.Inv) (hf : s.status.fault = false) (hc : s.cont = .idle)
    (hbus : s.bus.busEn = true ∨ ct = .initClocks 0) (hown : ct.ownsBuffer = false)
    (hop : op = initCode ↔ ct.runsInit = true) (hst : ct.stage? = none) (hck : ct.clock? = none)
    (hs : ct.started? = none) (hcs : ct.needsCs = true → s.bus.cs = true) (hbd : ct.inBounds s.params = true) :
    ({ latchOperands op s with cont := ct } : State).Inv := by
  obtain ⟨b1, b2, b3, b4, b5, b6, b7⟩ := inv_base_of_ok h hf
  obtain ⟨f1, f2, f3, f4⟩ := inv_idle h hc
  exact ⟨b3, b4, by simp [latchOperands, b1], by simp [latchOperands, b1, b2], by simp [latchOperands],
    by simp [latchOperands], fun _ => hbus, by simp [latchOperands, f1, hown], by simp [latchOperands, f2],
    by simp [latchOperands, f3], by simp [latchOperands, f4], fun _ => hop, by simp [hst], by simp [hck], by simp [hs],
    by rintro _ _ _ _ _ rfl; simp at hst, by simp [hown], b5, b6, b7, hcs, hbd⟩

/-- The start of READ_BLOCK or WRITE_BLOCK. -/
theorem inv_startData {s q : State} {op : BitVec 5} (h : s.Inv) (hf : s.status.fault = false) (hc : s.cont = .idle)
    (hbus : s.bus.busEn = true) (hown : q.cont.ownsBuffer = true) (hbuf : bufferOk s = true) (hop : op ≠ initCode)
    (hr : q.cont.runsInit = false) (hst : q.cont.stage? = none) (hck : q.cont.clock? = none)
    (hs : q.cont.started? = none) (e1 : q.lat = (latchOperands op s).lat)
    (e2 : q.status = (armData (latchOperands op s)).status) (e3 : q.bus = s.bus) (e4 : q.faultCode = s.faultCode)
    (e5 : q.init = s.init) (e6 : q.wire = s.wire) (e7 : q.mem = s.mem) (e8 : q.params = s.params) (hcs : s.bus.cs = true)
    (hbd : q.cont.inBounds s.params = true) : q.Inv := by
  obtain ⟨b1, b2, b3, b4, b5, b6, b7⟩ := inv_base_of_ok h hf
  obtain ⟨f1, f2, f3, f4⟩ := inv_idle h hc
  have hne : q.cont ≠ .idle := by intro x; simp [x] at hown
  simp [bufferOk] at hbuf
  have hx : ∀ a b c d e, q.cont ≠ .initTrail a b c d e := by intro a b c d e x; rw [x] at hr; simp at hr
  constructor <;> simp_all [latchOperands, armData]

/-! ### The sequencer -/

/-- A step that goes on within its operation: what must hold of the new program point. -/
theorem inv_move {s t : State} (h : s.Inv) (hb : s.cont ≠ .idle) (b : Base t) (he : t.status.err = false)
    (hec : t.status.errCode = .none) (hd : t.status.done = false) (hbus : t.bus.busEn = true)
    (hx : t.status.xfer = t.cont.ownsBuffer) (hp : t.status.poll = true → ∃ u k, t.cont = .busy u (k + 1))
    (hw : t.bus.width32 = true → t.cont.movesWords = true) (hph : t.init.phase ≠ .idle → t.cont.runsInit = true)
    (hl : t.lat = s.lat) (hr : t.cont.runsInit = s.cont.runsInit)
    (hst : ∀ c, t.cont.stage? = some c → t.status.cardState = c)
    (hck : ∀ b, t.cont.clock? = some b → t.bus.speedOp = b ∧ (b = true → t.bus.level = t.lat.level))
    (hfc : ∀ c, t.cont.started? = some c → t.crc7 = frameCrc (c.idx t.lat) (c.arg t.lat)) (hpar : t.params = s.params)
    (hob : t.cont.ownsBuffer = true → s.cont.ownsBuffer = true)
    (hh : ∀ cmd st r1 tail p, t.cont = .initTrail cmd st r1 tail p →
      p.r0 = some r1 ∧ ∀ v, st = .ok → tail = some v → p.r1 = some v)
    (hcs : t.cont.needsCs = true → t.bus.cs = true) (hbd : t.cont.inBounds t.params = true) : t.Inv := by
  obtain ⟨b1, b2, b3, b4, b5, b6, b7⟩ := b
  refine ⟨b3, b4, by simp [b1], by simp [b1, b2], by simp [he, hec], fun _ => ⟨hd, he⟩, fun _ => .inl hbus, hx, hp, hw,
    hph, ?_, hst, hck, hfc, hh, ?_, b5, b6, b7, hcs, hbd⟩
  · rw [hl, hr]; exact fun _ => h.opInit hb
  · intro x; rw [hl, hpar]; exact h.bufferFits (hob x)

/-- INIT's failure gives a state of the invariant (R282). -/
theorem inv_initFail {s : State} {c : ErrCode} {p : Pending} (hc : c ≠ .none) (b : Base s) : (initFail c p s).Inv := by
  unfold initFail
  apply inv_finishErr hc
  · obtain ⟨b1, b2, b3, b4, b5, b6, b7⟩ := b
    constructor <;> simp_all [resetBus_wire, commitPending]
    split <;> simp_all [csLevel_snoc]
  · rfl

/-- The return of a transaction keeps the invariant (R208, R273). -/
theorem inv_txnReturn {s0 s : State} {c : Caller} {st : TxnStatus} {r1 : Byte} {tail : Option Word} (h : s0.Inv)
    (hb : s0.cont ≠ .idle) (m : Mid s0 s) (hx : s.status.xfer = false) (hp : s.status.poll = false)
    (hw : s.bus.width32 = false) (hcal : s0.cont.caller? = some c) (hr : s0.cont.runsInit = c.isInit)
    (hst : ∀ cs, c.stage? = some cs → s.status.cardState = cs)
    (hck : ∀ b, c.clock? = some b → s.bus.speedOp = b ∧ (b = true → s.bus.level = s.lat.level))
    (hfc : s.crc7 = frameCrc (c.idx s.lat) (c.arg s.lat)) (hph : s.init.phase ≠ .idle → c.isInit = true)
    (hcs : s.bus.cs = true) :
    (txnReturn c st r1 tail s).Inv := by
  obtain ⟨m1, m2, m3, m4, m5, m6, m7, m8⟩ := m
  obtain ⟨b1, b2, b3, b4, b5, b6, b7⟩ := m1
  cases c with
  | cmdSend =>
    have hph : s.init.phase = .idle := by by_contra x; simpa [Caller.isInit] using hph x
    cases st <;> simp only [txnReturn, cmdSendFinish]
    · exact inv_finishOk ⟨b1, b2, b3, b4, b5, b6, b7⟩ hph
    all_goals exact inv_finishErr (by decide) ⟨b1, b2, b3, b4, b5, b6, b7⟩ hph
  | init cmd pend =>
    refine inv_move h hb ⟨b1, b2, b3, b4, b5, b6, b7⟩ m2 m3 m4 m5 ?_ ?_ ?_ ?_ m6 ?_ ?_ ?_ ?_ m8 ?_ ?_ ?_ ?_ <;>
      simp_all [txnReturn, Caller.isInit, Caller.stage?, Caller.clock?]
    · simp [Caller.idx, Caller.arg]
    · rintro _ _ _ _ _ rfl rfl rfl rfl rfl
      exact ⟨rfl, by rintro v rfl rfl; rfl⟩

/-- What a phase of INIT concludes keeps the invariant (R275 to R281). -/
theorem inv_initConclude {s0 s : State} {cmd : InitCmd} {st st' : TxnStatus} {r1 r' : Byte} {tail tl' : Option Word}
    {pend p' : Pending} (h : s0.Inv) (m : Mid s0 s) (hcont : s0.cont = .initTrail cmd st' r' tl' p')
    (hx : s.status.xfer = false) (hp : s.status.poll = false) (hw : s.bus.width32 = false)
    (hst : s.status.cardState = cmd.stage)
    (hck : s.bus.speedOp = cmd.fastClock ∧ (cmd.fastClock = true → s.bus.level = s.lat.level)) :
    (initConclude cmd st r1 tail pend s).Inv := by
  have hb : s0.cont ≠ .idle := by simp [hcont]
  obtain ⟨m1, m2, m3, m4, m5, m6, m7, m8⟩ := m
  obtain ⟨b1, b2, b3, b4, b5, b6, b7⟩ := m1
  have again : ∀ c2 : InitCmd, c2.stage = cmd.stage → c2.fastClock = cmd.fastClock → (initAgain c2 pend s).Inv := by
    intro c2 h1 h2
    refine inv_move h hb ⟨b1, b2, b3, b4, b5, b6, b7⟩ m2 m3 m4 m5 ?_ ?_ ?_ ?_ m6 ?_ ?_ ?_ ?_ m8 ?_ ?_ ?_ ?_ <;>
      simp_all [initAgain, Caller.isInit, Caller.stage?, Caller.clock?]
  have enter : ∀ c2 : InitCmd, c2.stage = cmd.stage → c2.fastClock = cmd.fastClock → (initEnter c2 pend s).Inv := by
    intro c2 h1 h2
    refine inv_move h hb ⟨b1, b2, b3, b4, b5, b6, b7⟩ m2 m3 m4 m5 ?_ ?_ ?_ ?_ m6 ?_ ?_ ?_ ?_ m8 ?_ ?_ ?_ ?_ <;>
      simp_all [initEnter, Caller.isInit, Caller.stage?, Caller.clock?]
  have enterAt : ∀ c2 : InitCmd, c2.fastClock = cmd.fastClock →
      (initEnter c2 pend (setCardState c2.stage s)).Inv := by
    intro c2 h2
    refine inv_move h hb ⟨b1, b2, b3, by simp [initEnter, setCardState, m5], b5, b6, b7⟩ m2 m3 m4 m5 ?_ ?_ ?_ ?_ m6
      ?_ ?_ ?_ ?_ m8 ?_ ?_ ?_ ?_ <;>
      simp_all [initEnter, setCardState, Caller.isInit, Caller.stage?, Caller.clock?]
  have fail : ∀ c, c ≠ .none → (initFail c pend s).Inv := fun c hc => inv_initFail hc ⟨b1, b2, b3, b4, b5, b6, b7⟩
  have retry : ∀ (l : Nat) (c : ErrCode) (c2 : InitCmd), c ≠ .none → c2.stage = cmd.stage →
      c2.fastClock = cmd.fastClock → (initRetry l c c2 pend s).Inv := by
    intro l c c2 hc h1 h2
    unfold initRetry
    split
    · exact fail c hc
    · exact again c2 h1 h2
  cases cmd <;> simp only [initConclude]
  · split
    · exact enterAt .ifCond rfl
    · generalize (if st = .timeout then s.init.absent + 1 else 0) = n
      have sI : Mid s0 { s with init := { s.init with absent := n } } :=
        ⟨⟨b1, b2, b3, b4, b5, b6, b7⟩, m2, m3, m4, m5, m6, m7, m8⟩
      split
      · exact inv_initFail (by decide) sI.base
      · unfold initRetry
        split
        · exact inv_initFail (by decide) sI.base
        · refine inv_move h hb ⟨b1, b2, b3, b4, b5, b6, b7⟩ m2 m3 m4 m5 ?_ ?_ ?_ ?_ m6 ?_ ?_ ?_ ?_ m8 ?_ ?_ ?_ ?_ <;>
            simp_all [initAgain, Caller.isInit, Caller.stage?, Caller.clock?]
  · split
    · exact enterAt .crcOn rfl
    · exact retry _ _ _ (by decide) rfl rfl
  · split
    · exact enter _ rfl rfl
    · exact fail _ (by decide)
  · split
    · exact again _ rfl rfl
    · exact retry _ _ _ (by decide) rfl rfl
  · split
    · refine inv_move h hb ⟨b1, b2, b3, b4, b5, b6, b7⟩ m2 m3 m4 m5 ?_ ?_ ?_ ?_ m6 ?_ ?_ ?_ ?_ m8 ?_ ?_ ?_ ?_ <;>
        simp_all [InitCmd.stage, InitCmd.fastClock]
    · exact retry _ _ _ (by decide) rfl rfl
  · split
    · exact enter _ rfl rfl
    · exact retry _ _ _ (by decide) rfl rfl
  · split
    · refine inv_finishOk ⟨b1, b2, b3, ?_, b5, b6, b7⟩ rfl
      simp [setCardState, m5]
    · exact retry _ _ _ (by decide) rfl rfl

/-- The end of a busy poll keeps the invariant (R250). -/
theorem inv_busyReturn {s0 s : State} {u : BusyUser} {k : Nat} {r : Bool} (h : s0.Inv) (hb : s0.cont = .busy u k)
    (m : Mid s0 s) (hx : s.status.xfer = false) (hw : s.bus.width32 = false)
    (hst : ∀ cs, s0.cont.stage? = some cs → s.status.cardState = cs)
    (hck : ∀ b, s0.cont.clock? = some b → s.bus.speedOp = b ∧ (b = true → s.bus.level = s.lat.level))
    (hfc : ∀ c, s0.cont.started? = some c → s.crc7 = frameCrc (c.idx s.lat) (c.arg s.lat))
    (hph : s.init.phase ≠ .idle → s0.cont.runsInit = true) (hcs : s.bus.cs = true) : (busyReturn u r s).Inv := by
  obtain ⟨m1, m2, m3, m4, m5, m6, m7, m8⟩ := m
  obtain ⟨b1, b2, b3, b4, b5, b6, b7⟩ := m1
  have hb0 : s0.cont ≠ .idle := by simp [hb]
  cases u
  case txn c r1 =>
    simp only [hb, stage_busy_txn, clock_busy_txn, started_busy_txn, runsInit_busy_txn] at hst hck hfc hph
    exact inv_txnReturn h hb0 ⟨⟨b1, b2, b3, b4, b5, b6, b7⟩, m2, m3, m4, m5, m6, m7, m8⟩ hx rfl hw (by simp [hb]; rfl)
      (by simp [hb]) hst hck (hfc _ rfl) hph hcs
  all_goals
    have hph : s.init.phase = .idle := by by_contra x; simpa [hb] using hph x
    simp only [busyReturn]
    split
    · exact inv_finishOk ⟨b1, b2, b3, b4, b5, b6, b7⟩ hph
    · exact inv_finishErr (by decide) ⟨b1, b2, b3, b4, b5, b6, b7⟩ hph

/-- A received data byte keeps the invariant (R232). -/
theorem inv_readData {s q : State} {i : Fin 512} {a : Nat} {d : Byte} (h : s.Inv) (hc : s.cont = .readData i)
    (M : Mid s q) (h1 : q.init.phase = .idle) (h2 : q.status.xfer = true) (h3 : q.status.poll = false)
    (h4 : q.bus.cs = true) :
    (afterDataByte i .readData .readCrcHi (accumulate d (engineStore a d q))).Inv := by
  have hb : s.cont ≠ .idle := by simp [hc]
  obtain ⟨⟨b1, b2, b3, b4, b5, b6, b7⟩, m2, m3, m4, m5, m6, m7, m8⟩ := M
  have bm := engineStore_mem_wf a d q b6
  have M' : Mid s (accumulate d (engineStore a d q)) := ⟨⟨b1, b2, b3, b4, b5, bm, b7⟩, m2, m3, m4, m5, m6, m7, m8⟩
  have h1 : (accumulate d (engineStore a d q)).init.phase = .idle := h1
  have h2 : (accumulate d (engineStore a d q)).status.xfer = true := h2
  have h3 : (accumulate d (engineStore a d q)).status.poll = false := h3
  have h4 : (accumulate d (engineStore a d q)).bus.cs = true := h4
  generalize (accumulate d (engineStore a d q)) = q' at *
  obtain ⟨⟨b1, b2, b3, b4, b5, b6, b7⟩, m2, m3, m4, m5, m6, m7, m8⟩ := M'
  unfold afterDataByte
  split
  all_goals
    refine inv_move h hb ⟨b1, b2, b3, b4, b5, b6, b7⟩ m2 m3 m4 m5 ?_ ?_ ?_ ?_ m6 ?_ ?_ ?_ ?_ m8 ?_ ?_ ?_ ?_ <;>
      simp_all [releaseBuffer]

end Sys2Proof.Laws
end

