-- ==== Sys2Proof/Laws/PerInstr.lean ====
section
/-! SUPPORT. Per instruction: the form of its encoding. An OPCODE write has four bytes, the code in bits 4:0 and zeros
above (R100, R101, R103); a command frame six, with the start bits 01 and the end bit 1 (R110); a token one, a value of
R115 or of the form `xxx0sss1` of R117. -/
namespace Sys2Proof.Laws

/-- The encoding of the instruction has one of the three forms of spec/30_encoding.md. -/
def EncodedForm.Statement (i : Instr) : Prop :=
  match encode i with
  | [b] => b = 0xFE ∨ b = 0xFC ∨ b = 0xFD ∨ (b.getLsbD 4 = false ∧ b.getLsbD 0 = true)
  | [b0, b1, b2, b3] => b0.toNat < 0x20 ∧ b1 = 0 ∧ b2 = 0 ∧ b3 = 0
  | [b0, _, _, _, _, b5] => b0.getLsbD 7 = false ∧ b0.getLsbD 6 = true ∧ b5.getLsbD 0 = true
  | _ => False

/-- A frame put together from its fields has the start bits and the end bit of R110. -/
theorem EncodedForm.ofFields (idx : BitVec 6) (arg : Word) (crc : BitVec 7) :
    let w := 0b01#2 ++ idx ++ arg ++ crc ++ 1#1
    (w.extractLsb' 40 8).getLsbD 7 = false ∧ (w.extractLsb' 40 8).getLsbD 6 = true ∧
    (w.extractLsb' 0 8).getLsbD 0 = true := by
  simp only [BitVec.getLsbD_extractLsb', BitVec.getLsbD_append]
  simp

theorem EncodedForm.nop : EncodedForm.Statement .nop := by
  simp [EncodedForm.Statement, encode, wordBytes]
theorem EncodedForm.busEnable : EncodedForm.Statement .busEnable := by
  simp [EncodedForm.Statement, encode, wordBytes]
theorem EncodedForm.busDisable : EncodedForm.Statement .busDisable := by
  simp [EncodedForm.Statement, encode, wordBytes]
theorem EncodedForm.csAssert : EncodedForm.Statement .csAssert := by
  simp [EncodedForm.Statement, encode, wordBytes]
theorem EncodedForm.csRelease : EncodedForm.Statement .csRelease := by
  simp [EncodedForm.Statement, encode, wordBytes]
theorem EncodedForm.setSpeed : EncodedForm.Statement .setSpeed := by
  simp [EncodedForm.Statement, encode, wordBytes]
theorem EncodedForm.idleClocks : EncodedForm.Statement .idleClocks := by
  simp [EncodedForm.Statement, encode, wordBytes]
theorem EncodedForm.xferByte : EncodedForm.Statement .xferByte := by
  simp [EncodedForm.Statement, encode, wordBytes]
theorem EncodedForm.xferWord : EncodedForm.Statement .xferWord := by
  simp [EncodedForm.Statement, encode, wordBytes]
theorem EncodedForm.crc7Clear : EncodedForm.Statement .crc7Clear := by
  simp [EncodedForm.Statement, encode, wordBytes]
theorem EncodedForm.crc7Feed : EncodedForm.Statement .crc7Feed := by
  simp [EncodedForm.Statement, encode, wordBytes]
theorem EncodedForm.crc16Clear : EncodedForm.Statement .crc16Clear := by
  simp [EncodedForm.Statement, encode, wordBytes]
theorem EncodedForm.crc16Feed : EncodedForm.Statement .crc16Feed := by
  simp [EncodedForm.Statement, encode, wordBytes]
theorem EncodedForm.cmdSend : EncodedForm.Statement .cmdSend := by
  simp [EncodedForm.Statement, encode, wordBytes]
theorem EncodedForm.readBlock : EncodedForm.Statement .readBlock := by
  simp [EncodedForm.Statement, encode, wordBytes]
theorem EncodedForm.writeBlock : EncodedForm.Statement .writeBlock := by
  simp [EncodedForm.Statement, encode, wordBytes]
theorem EncodedForm.stopTran : EncodedForm.Statement .stopTran := by
  simp [EncodedForm.Statement, encode, wordBytes]
theorem EncodedForm.busyWait : EncodedForm.Statement .busyWait := by
  simp [EncodedForm.Statement, encode, wordBytes]
theorem EncodedForm.init : EncodedForm.Statement .init := by
  simp [EncodedForm.Statement, encode, wordBytes]
theorem EncodedForm.reserved13 : EncodedForm.Statement .reserved13 := by
  simp [EncodedForm.Statement, encode, wordBytes]
theorem EncodedForm.reserved14 : EncodedForm.Statement .reserved14 := by
  simp [EncodedForm.Statement, encode, wordBytes]
theorem EncodedForm.reserved15 : EncodedForm.Statement .reserved15 := by
  simp [EncodedForm.Statement, encode, wordBytes]
theorem EncodedForm.reserved16 : EncodedForm.Statement .reserved16 := by
  simp [EncodedForm.Statement, encode, wordBytes]
theorem EncodedForm.reserved17 : EncodedForm.Statement .reserved17 := by
  simp [EncodedForm.Statement, encode, wordBytes]
theorem EncodedForm.reserved18 : EncodedForm.Statement .reserved18 := by
  simp [EncodedForm.Statement, encode, wordBytes]
theorem EncodedForm.reserved19 : EncodedForm.Statement .reserved19 := by
  simp [EncodedForm.Statement, encode, wordBytes]
theorem EncodedForm.reserved1A : EncodedForm.Statement .reserved1A := by
  simp [EncodedForm.Statement, encode, wordBytes]
theorem EncodedForm.reserved1B : EncodedForm.Statement .reserved1B := by
  simp [EncodedForm.Statement, encode, wordBytes]
theorem EncodedForm.reserved1C : EncodedForm.Statement .reserved1C := by
  simp [EncodedForm.Statement, encode, wordBytes]
theorem EncodedForm.reserved1D : EncodedForm.Statement .reserved1D := by
  simp [EncodedForm.Statement, encode, wordBytes]
theorem EncodedForm.reserved1E : EncodedForm.Statement .reserved1E := by
  simp [EncodedForm.Statement, encode, wordBytes]
theorem EncodedForm.reserved1F : EncodedForm.Statement .reserved1F := by
  simp [EncodedForm.Statement, encode, wordBytes]
theorem EncodedForm.sdFrame (idx : BitVec 6) (arg : Word) (crc : BitVec 7) : EncodedForm.Statement (.sdFrame idx arg crc) :=
  EncodedForm.ofFields idx arg crc
theorem EncodedForm.cmd0 (arg : Word) (crc : BitVec 7) : EncodedForm.Statement (.cmd0 arg crc) :=
  EncodedForm.ofFields _ arg crc
theorem EncodedForm.cmd8 (arg : Word) (crc : BitVec 7) : EncodedForm.Statement (.cmd8 arg crc) :=
  EncodedForm.ofFields _ arg crc
theorem EncodedForm.cmd59 (arg : Word) (crc : BitVec 7) : EncodedForm.Statement (.cmd59 arg crc) :=
  EncodedForm.ofFields _ arg crc
theorem EncodedForm.cmd55 (arg : Word) (crc : BitVec 7) : EncodedForm.Statement (.cmd55 arg crc) :=
  EncodedForm.ofFields _ arg crc
theorem EncodedForm.acmd41 (arg : Word) (crc : BitVec 7) : EncodedForm.Statement (.acmd41 arg crc) :=
  EncodedForm.ofFields _ arg crc
theorem EncodedForm.cmd58 (arg : Word) (crc : BitVec 7) : EncodedForm.Statement (.cmd58 arg crc) :=
  EncodedForm.ofFields _ arg crc
theorem EncodedForm.cmd16 (arg : Word) (crc : BitVec 7) : EncodedForm.Statement (.cmd16 arg crc) :=
  EncodedForm.ofFields _ arg crc
theorem EncodedForm.cmd17 (arg : Word) (crc : BitVec 7) : EncodedForm.Statement (.cmd17 arg crc) :=
  EncodedForm.ofFields _ arg crc
theorem EncodedForm.cmd18 (arg : Word) (crc : BitVec 7) : EncodedForm.Statement (.cmd18 arg crc) :=
  EncodedForm.ofFields _ arg crc
theorem EncodedForm.cmd12 (arg : Word) (crc : BitVec 7) : EncodedForm.Statement (.cmd12 arg crc) :=
  EncodedForm.ofFields _ arg crc
theorem EncodedForm.cmd24 (arg : Word) (crc : BitVec 7) : EncodedForm.Statement (.cmd24 arg crc) :=
  EncodedForm.ofFields _ arg crc
theorem EncodedForm.cmd25 (arg : Word) (crc : BitVec 7) : EncodedForm.Statement (.cmd25 arg crc) :=
  EncodedForm.ofFields _ arg crc
theorem EncodedForm.acmd23 (arg : Word) (crc : BitVec 7) : EncodedForm.Statement (.acmd23 arg crc) :=
  EncodedForm.ofFields _ arg crc
theorem EncodedForm.startToken : EncodedForm.Statement .startToken := by
  simp [EncodedForm.Statement, encode]
theorem EncodedForm.startTokenMulti : EncodedForm.Statement .startTokenMulti := by
  simp [EncodedForm.Statement, encode]
theorem EncodedForm.stopToken : EncodedForm.Statement .stopToken := by
  simp [EncodedForm.Statement, encode]
theorem EncodedForm.dataResponse (ignored status : BitVec 3) : EncodedForm.Statement (.dataResponse ignored status) := by
  refine .inr (.inr (.inr ?_))
  revert ignored status
  decide

end Sys2Proof.Laws
end

