-- ==== Sys2Proof/Laws/Run.lean ====
section
/-! SUPPORT. Runs of the Engine: several steps in a row, the step that takes a scripted answer, and the loops of the
operations (the frame's bytes, the polls, the data bytes), each as one run. -/
namespace Sys2Proof.Laws
open Sys2Proof.Machine

/-! ### Runs and event lists -/

/-- A run of m + n steps is a run of m steps and then one of n. -/
theorem engineRun_add {m n : Nat} {s t : State} (h : engineRun m s = .next t) :
    engineRun (m + n) s = engineRun n t := by
  induction m generalizing s with
  | zero => simp only [engineRun, Host.Outcome.next.injEq] at h; simp [h]
  | succ m ih =>
    rw [show m + 1 + n = (m + n) + 1 by omega]
    simp only [engineRun] at h ⊢
    cases hs : engineStep s <;> simp only [hs] at h ⊢
    · exact ih h
    · cases h
    · cases h

/-- A run of one step. -/
theorem engineRun_one (s : State) : engineRun 1 s = engineStep s := by
  simp only [engineRun]
  cases engineStep s <;> rfl

/-- A run that begins with a step. -/
theorem engineRun_succ {n : Nat} {s t : State} (h : engineStep s = .next t) : engineRun (n + 1) s = engineRun n t := by
  simp [engineRun, h]

@[simp] theorem exchanges_nil (cs : Bool) (b : BusCtl) : exchanges cs b [] [] = [] := rfl
@[simp] theorem exchanges_cons (cs : Bool) (b : BusCtl) (t r : Byte) (ts rs : List Byte) :
    exchanges cs b (t :: ts) (r :: rs) = .exchange cs b.speedOp b.level t r :: exchanges cs b ts rs := rfl

/-- The events of a longer list are the events of its parts. -/
theorem exchanges_append (cs : Bool) (b : BusCtl) (t1 t2 r1 r2 : List Byte) (h : t1.length = r1.length) :
    exchanges cs b (t1 ++ t2) (r1 ++ r2) = exchanges cs b t1 r1 ++ exchanges cs b t2 r2 := by
  unfold exchanges
  exact List.zipWith_append h

@[simp] theorem fills_length (n : Nat) : (fills n).length = n := by simp [fills]
@[simp] theorem fills_zero : fills 0 = [] := rfl
theorem fills_succ (n : Nat) : fills (n + 1) = 0xFF :: fills n := rfl
theorem fills_add (m n : Nat) : fills (m + n) = fills m ++ fills n := by
  unfold fills; rw [List.replicate_add]

/-! ### One step with a scripted answer -/

/-- The Engine's step where the running operation is about to send tx and the Card answers rx. -/
theorem engineStep_scripted {s : State} {tx rx : Byte} {rest : List Byte} (hb : s.cont ≠ .idle)
    (he : engineTx (enginePrepare s) = some tx) (hf : (enginePrepare s).status.fault = false)
    (hu : (enginePrepare s).bus.busEn = true) (hc : s.card = rx :: rest) :
    engineStep s = .next (engineAbsorb tx rx
      { enginePrepare s with
        card := rest
        wire := (enginePrepare s).wire ++ [.exchange (enginePrepare s).bus.cs (enginePrepare s).bus.speedOp
          (enginePrepare s).bus.level tx rx] }) := by
  rw [engineStep_exchange hb he hf hu, exchange_scripted tx rx rest _ (by simpa using hc)]

/-- The same at a program point that sets up nothing before its exchange. -/
theorem engineStep_plain {s : State} {tx rx : Byte} {rest : List Byte} (hb : s.cont ≠ .idle)
    (hp : enginePrepare s = s) (he : engineTx s = some tx) (hf : s.status.fault = false)
    (hu : s.bus.busEn = true) (hc : s.card = rx :: rest) :
    engineStep s = .next (engineAbsorb tx rx
      { s with card := rest, wire := s.wire ++ [.exchange s.bus.cs s.bus.speedOp s.bus.level tx rx] }) := by
  have h := engineStep_scripted hb (hp.symm ▸ he) (hp.symm ▸ hf) (hp.symm ▸ hu) hc
  rwa [hp] at h

/-! ### The loops -/

/-- IDLE_CLOCKS up to its last byte (R151). -/
theorem run_idleClocks (rxs rest : List Byte) : ∀ (s : State), s.status.fault = false → s.bus.busEn = true →
    s.cont = .idleClocks (rxs.length + 1) → s.card = rxs ++ rest →
    engineRun rxs.length s = .next { s with
      cont := .idleClocks 1, card := rest, wire := s.wire ++ exchanges s.bus.cs s.bus (fills rxs.length) rxs } := by
  induction rxs with
  | nil => intro s _ _ hc hk; cases s; simp_all [engineRun]
  | cons r rs ih =>
    intro s hf hu hc hk
    have h := engineStep_plain (tx := 0xFF) (rx := r) (rest := rs ++ rest) (by simp [hc]) (by simp [enginePrepare, hc])
      (by simp [engineTx, hc, fill]) hf hu hk
    rw [List.length_cons, engineRun_succ h]
    simp only [engineAbsorb, hc]
    rw [if_neg (by simp)]
    rw [ih _ (by simpa using hf) (by simpa using hu) (by simp) rfl]
    simp [fills_succ]

/-- The polls for R1 that bring no response (R203). -/
theorem run_r1Poll (c : Caller) (polls rest : List Byte) : ∀ (k : Nat) (s : State), s.status.fault = false →
    s.bus.busEn = true → s.cont = .r1Poll c k → (∀ b ∈ polls, b.getLsbD 7 = true) →
    k + polls.length < s.params.ncrLimit → s.card = polls ++ rest →
    engineRun polls.length s = .next { s with
      cont := .r1Poll c (k + polls.length), card := rest
      wire := s.wire ++ exchanges s.bus.cs s.bus (fills polls.length) polls } := by
  induction polls with
  | nil => intro k s _ _ hc _ _ hk; cases s; simp_all [engineRun]
  | cons r rs ih =>
    intro k s hf hu hc hp hn hk
    have h := engineStep_plain (tx := 0xFF) (rx := r) (rest := rs ++ rest) (by simp [hc]) (by simp [enginePrepare, hc])
      (by simp [engineTx, hc, fill]) hf hu hk
    rw [List.length_cons, engineRun_succ h]
    simp only [List.length_cons] at hn
    simp only [engineAbsorb, hc]
    rw [if_neg (by simp [isR1, hp r (by simp)]), if_neg (by omega)]
    rw [ih (k + 1) _ (by simpa using hf) (by simpa using hu) (by simp) (fun b hb => hp b (by simp [hb])) (by simp; omega)
      rfl]
    have e : k + 1 + rs.length = k + (rs.length + 1) := by omega
    simp [fills_succ, e]

/-- The wait for the start token over fill bytes (R231). -/
theorem run_tokenWait (n : Nat) (rest : List Byte) : ∀ (k : Nat) (s : State), s.status.fault = false →
    s.bus.busEn = true → s.cont = .tokenWait k → k + n < s.params.tokenPollLimit → s.card = fills n ++ rest →
    engineRun n s = .next { s with
      cont := .tokenWait (k + n), card := rest
      wire := s.wire ++ exchanges s.bus.cs s.bus (fills n) (fills n) } := by
  induction n with
  | zero => intro k s _ _ hc _ hk; cases s; simp_all [engineRun]
  | succ n ih =>
    intro k s hf hu hc hn hk
    have h := engineStep_plain (tx := 0xFF) (rx := 0xFF) (rest := fills n ++ rest) (by simp [hc])
      (by simp [enginePrepare, hc]) (by simp [engineTx, hc, fill]) hf hu hk
    rw [engineRun_succ h]
    simp only [engineAbsorb, hc]
    rw [if_neg (by decide), if_neg (by decide), if_neg (by omega)]
    rw [ih (k + 1) _ (by simpa using hf) (by simpa using hu) (by simp) (by simp; omega) rfl]
    have e : k + 1 + n = k + (n + 1) := by omega
    simp [fills_succ, e]

/-- The wait for the data-response token over fill bytes (R243). -/
theorem run_writeResp (n : Nat) (rest : List Byte) : ∀ (k : Nat) (s : State), s.status.fault = false →
    s.bus.busEn = true → s.cont = .writeResp k → k + n < s.params.drespLimit → s.card = fills n ++ rest →
    engineRun n s = .next { s with
      cont := .writeResp (k + n), card := rest
      wire := s.wire ++ exchanges s.bus.cs s.bus (fills n) (fills n) } := by
  induction n with
  | zero => intro k s _ _ hc _ hk; cases s; simp_all [engineRun]
  | succ n ih =>
    intro k s hf hu hc hn hk
    have h := engineStep_plain (tx := 0xFF) (rx := 0xFF) (rest := fills n ++ rest) (by simp [hc])
      (by simp [enginePrepare, hc]) (by simp [engineTx, hc, fill]) hf hu hk
    rw [engineRun_succ h]
    simp only [engineAbsorb, hc]
    rw [if_neg (by decide), if_neg (by omega)]
    rw [ih (k + 1) _ (by simpa using hf) (by simpa using hu) (by simp) (by simp; omega) rfl]
    have e : k + 1 + n = k + (n + 1) := by omega
    simp [fills_succ, e]

/-- The busy poll over busy bytes, below its bound; POLL is 1 from its first exchange on (R250). -/
theorem run_busy (u : BusyUser) (w rest : List Byte) : ∀ (k : Nat) (s : State), s.status.fault = false →
    s.bus.busEn = true → s.cont = .busy u k → (∀ b ∈ w, b ≠ 0xFF) → k + w.length < busyBound s.params →
    s.card = w ++ rest →
    engineRun w.length s = .next { s with
      cont := .busy u (k + w.length), card := rest
      status := { s.status with poll := if w = [] then s.status.poll else true }
      wire := s.wire ++ exchanges s.bus.cs s.bus (fills w.length) w } := by
  induction w with
  | nil => intro k s _ _ hc _ _ hk; cases hs : s.status; cases s; simp_all [engineRun]
  | cons r rs ih =>
    intro k s hf hu hc hp hn hk
    have hpr : enginePrepare s = { s with status := { s.status with poll := true } } := by simp [enginePrepare, hc]
    have h := engineStep_scripted (s := s) (tx := 0xFF) (rx := r) (rest := rs ++ rest) (by simp [hc])
      (by simp [hpr, engineTx, hc, fill]) (by simpa [hpr] using hf) (by simpa [hpr] using hu) hk
    rw [List.length_cons, engineRun_succ h]
    simp only [List.length_cons] at hn
    simp only [hpr, engineAbsorb, hc]
    rw [if_neg (by simpa [fill] using hp r (by simp)), if_neg (by omega)]
    rw [ih (k + 1) _ (by simpa using hf) (by simpa using hu) (by simp) (fun b hb => hp b (by simp [hb])) (by simp; omega)
      rfl]
    have e : k + 1 + rs.length = k + (rs.length + 1) := by omega
    simp [fills_succ, e]

/-- INIT's idle clocks after the first, up to the last (R274). -/
theorem run_initClocks (rxs rest : List Byte) : ∀ (k : Nat) (s : State), s.status.fault = false → s.bus.busEn = true →
    s.cont = .initClocks (k + 1) → k + 1 + rxs.length < s.params.idleClockBytes → s.card = rxs ++ rest →
    engineRun rxs.length s = .next { s with
      cont := .initClocks (k + 1 + rxs.length), card := rest
      wire := s.wire ++ exchanges s.bus.cs s.bus (fills rxs.length) rxs } := by
  induction rxs with
  | nil => intro k s _ _ hc _ hk; cases s; simp_all [engineRun]
  | cons r rs ih =>
    intro k s hf hu hc hn hk
    have h := engineStep_plain (tx := 0xFF) (rx := r) (rest := rs ++ rest) (by simp [hc]) (by simp [enginePrepare, hc])
      (by simp [engineTx, hc, fill]) hf hu hk
    rw [List.length_cons, engineRun_succ h]
    simp only [List.length_cons] at hn
    simp only [engineAbsorb, hc]
    rw [if_neg (by omega)]
    rw [ih (k + 1) _ (by simpa using hf) (by simpa using hu) (by simp) (by simp; omega) rfl]
    have e : k + 1 + 1 + rs.length = k + 1 + (rs.length + 1) := by omega
    simp [fills_succ, e]

/-- Data byte i lies i bytes above the buffer's start where the buffer does not wrap (R83, R88). -/
theorem byteAddr_eq (l : Latch) (i : Fin 512) (h : l.buf.toNat + 511 ≤ 0xFFFFFFFF) :
    l.byteAddr i = l.buf.toNat + i.val := by
  have := i.isLt
  unfold Latch.byteAddr
  rw [BitVec.toNat_add, BitVec.toNat_ofNat, Nat.mod_eq_of_lt (a := i.val) (by omega), Nat.mod_eq_of_lt (by omega)]

/-- Before a data byte only WIDTH32 may be set up (R84). -/
theorem prepare_dataByte {s : State} {i : Fin 512} (h : s.cont = .readData i ∨ s.cont = .writeData i) :
    ∃ w, enginePrepare s = { s with bus := { s.bus with width32 := w } } := by
  by_cases hi : i = 0
  · exact ⟨s.lat.wordAligned, by rcases h with h | h <;> simp [enginePrepare, h, hi]⟩
  · have hp : enginePrepare s = s := by rcases h with h | h <;> simp [enginePrepare, h, hi]
    exact ⟨s.bus.width32, hp⟩

/-- An address put into a list of addresses is in it, and so is every one that was. -/
theorem mem_addAddr (a x : Nat) (l : List Nat) : x ∈ addAddr a l ↔ x = a ∨ x ∈ l := by
  unfold addAddr
  split
  · rename_i h
    rw [List.contains_iff_mem] at h
    exact ⟨.inr, fun hx => hx.elim (fun e => e ▸ h) id⟩
  · simp

/-- READ_BLOCK's data bytes from byte i to the last: they go to the buffer in order and into CRC16, each waits for a
barrier after the end of this transfer, and the buffer is released (R83, R94, R187, R232). -/
theorem run_readData (rest : List Byte) : ∀ (bs : List Byte) (i : Fin 512) (s : State), s.status.fault = false →
    s.bus.busEn = true → s.cont = .readData i → i.val + bs.length = 512 → s.card = bs ++ rest →
    s.mem.wf = true → s.lat.buf.toNat + 511 ≤ 0xFFFFFFFF →
    ∃ m e f, engineRun bs.length s = .next { s with
        cont := .readCrcHi
        status := { s.status with xfer := false }
        bus := { s.bus with width32 := false }
        crc16 := crc16Bytes s.crc16 bs
        wire := s.wire ++ exchanges s.bus.cs s.bus (fills bs.length) bs
        mem := m, engStores := e, seenStores := f, card := rest } ∧ m.wf = true ∧
      (∀ j (h : j < bs.length), m.read (s.lat.buf.toNat + i.val + j) = bs[j]) ∧
      (∀ a, (a < s.lat.buf.toNat + i.val ∨ s.lat.buf.toNat + i.val + bs.length ≤ a) → m.read a = s.mem.read a) ∧
      (∀ a, a ∈ e ↔ a ∈ s.engStores ∨ s.lat.buf.toNat + i.val ≤ a ∧ a < s.lat.buf.toNat + i.val + bs.length) ∧
      (∀ a, a ∈ f ↔ a ∈ s.seenStores ∧
        ¬(s.lat.buf.toNat + i.val ≤ a ∧ a < s.lat.buf.toNat + i.val + bs.length)) := by
  intro bs
  induction bs with
  | nil => intro i s _ _ _ h; exact absurd h (by have := i.isLt; simp; omega)
  | cons r rs ih =>
    intro i s hf hu hc hn hk hm hb
    have hi := i.isLt
    simp only [List.length_cons] at hn
    obtain ⟨w, hpr⟩ := prepare_dataByte (.inl hc)
    have h := engineStep_scripted (s := s) (tx := 0xFF) (rx := r) (rest := rs ++ rest) (by simp [hc])
      (by simp [hpr, engineTx, hc, fill]) (by simpa [hpr] using hf) (by simpa [hpr] using hu) hk
    simp only [hpr, engineAbsorb, hc, accumulate, engineStore, byteAddr_eq s.lat i hb] at h
    have hother : ∀ a, (a < s.lat.buf.toNat + i.val ∨ s.lat.buf.toNat + i.val + 1 ≤ a) →
        (s.mem.write (s.lat.buf.toNat + i.val) r).read a = s.mem.read a :=
      fun a ha => read_write_other r (by omega) s.mem
    cases rs with
    | nil =>
      unfold afterDataByte at h
      rw [dif_neg (by simp at hn; omega)] at h
      simp only [releaseBuffer] at h
      have hrun : engineRun [r].length s = engineRun 0 _ := engineRun_succ h
      rw [hrun]
      refine ⟨s.mem.write (s.lat.buf.toNat + i.val) r, addAddr (s.lat.buf.toNat + i.val) s.engStores,
        s.seenStores.filter (fun x => x != s.lat.buf.toNat + i.val), ?_, write_wf _ _ hm, ?_, ?_, ?_, ?_⟩
      · simp [engineRun, crc16Bytes, fills_succ]
      · intro j hj
        obtain rfl : j = 0 := by simpa using hj
        exact read_write_same _ _ hm
      · intro a ha
        exact hother a (by simpa using ha)
      · intro a
        rw [mem_addAddr, List.length_singleton]
        by_cases hx : a ∈ s.engStores <;> simp only [hx, true_or, or_true, false_or, or_false, iff_self]
        omega
      · intro a
        simp only [List.mem_filter, bne_iff_ne, List.length_singleton]
        by_cases hx : a ∈ s.seenStores <;> simp only [hx, true_and, false_and, iff_self]
        omega
    | cons q qs =>
      unfold afterDataByte at h
      simp only [List.length_cons] at hn
      rw [dif_pos (by omega)] at h
      obtain ⟨u, hs⟩ : ∃ u, engineStep s = .next u := ⟨_, h⟩
      have e := Host.Outcome.next.inj (h.symm.trans hs)
      have hrun : engineRun (r :: q :: qs).length s = engineRun (q :: qs).length u := engineRun_succ hs
      rw [hrun]
      obtain ⟨m, es, fs, h1, h2, h3, h4, h5, h6⟩ := ih ⟨i.val + 1, by omega⟩ u (by simpa [← e] using hf)
        (by simpa [← e] using hu) (by rw [← e]) (by simp only [List.length_cons]; omega) (by rw [← e])
        (by rw [← e]; exact write_wf _ _ hm) (by simpa [← e] using hb)
      have hl : u.lat = s.lat := by rw [← e]
      have hmu : u.mem = s.mem.write (s.lat.buf.toNat + i.val) r := by rw [← e]
      have heu : u.engStores = addAddr (s.lat.buf.toNat + i.val) s.engStores := by rw [← e]
      have hsu : u.seenStores = s.seenStores.filter (fun x => x != s.lat.buf.toNat + i.val) := by rw [← e]
      rw [hl] at h3 h4
      rw [hmu] at h4
      refine ⟨m, es, fs, ?_, h2, ?_, ?_, ?_, ?_⟩
      · rw [h1, ← e]
        simp [crc16Bytes, fills_succ]
        rfl
      · intro j hj
        cases j with
        | zero =>
          have := h4 (s.lat.buf.toNat + i.val) (by left; simp)
          simp only [Nat.add_zero, List.getElem_cons_zero]
          rw [this]
          exact read_write_same _ _ hm
        | succ j =>
          have := h3 j (by simpa using hj)
          simp only [List.getElem_cons_succ]
          rw [← this]
          congr 1
          simp only
          omega
      · intro a ha
        rw [h4 a (by simp only [List.length_cons] at ha ⊢; omega)]
        exact hother a (by simp only [List.length_cons] at ha; omega)
      · intro a
        rw [h5, heu, mem_addAddr, hl]
        by_cases hx : a ∈ s.engStores <;>
          simp only [hx, true_or, or_true, false_or, or_false, iff_self, List.length_cons]
        omega
      · intro a
        rw [h6, hsu, hl]
        simp only [List.mem_filter, bne_iff_ne, List.length_cons]
        by_cases hx : a ∈ s.seenStores <;> simp only [hx, true_and, false_and, iff_self]
        omega

/-- The Engine's read of a data byte advances the counter of draws where the byte is one (log 12). -/
theorem countEngineDraw_eq (a : Nat) (s : State) :
    countEngineDraw a s = { s with draws := if a ∈ s.unordered then s.draws + 1 else s.draws } := by
  unfold countEngineDraw
  by_cases h : a ∈ s.unordered <;> simp [h]

/-- WRITE_BLOCK's data bytes from byte i to the last: they are sent in order and accumulated in CRC16, and the buffer is
released (R83, R187, R240). A byte that no Host store left unordered is memory's; where every one is, nothing is drawn
(R94, log 12). -/
theorem run_writeData (rest : List Byte) : ∀ (rxs : List Byte) (i : Fin 512) (s : State), s.status.fault = false →
    s.bus.busEn = true → s.cont = .writeData i → i.val + rxs.length = 512 → s.card = rxs ++ rest →
    s.lat.buf.toNat + 511 ≤ 0xFFFFFFFF →
    ∃ (sent : List Byte) (d : Nat), sent.length = rxs.length ∧
      (∀ j (h : j < sent.length), s.lat.buf.toNat + i.val + j ∉ s.unordered →
        sent[j] = s.mem.read (s.lat.buf.toNat + i.val + j)) ∧
      ((∀ j, j < rxs.length → s.lat.buf.toNat + i.val + j ∉ s.unordered) → d = s.draws) ∧
      engineRun rxs.length s = .next { s with
        cont := .writeCrcHi
        status := { s.status with xfer := false }
        bus := { s.bus with width32 := false }
        crc16 := crc16Bytes s.crc16 sent
        wire := s.wire ++ exchanges s.bus.cs s.bus sent rxs
        draws := d, card := rest } := by
  intro rxs
  induction rxs with
  | nil => intro i s _ _ _ h; exact absurd h (by have := i.isLt; simp; omega)
  | cons r rs ih =>
    intro i s hf hu hc hn hk hb
    have hi := i.isLt
    simp only [List.length_cons] at hn
    obtain ⟨w, hpr⟩ := prepare_dataByte (.inr hc)
    have h := engineStep_scripted (s := s) (tx := engineLoad (s.lat.buf.toNat + i.val) s) (rx := r) (rest := rs ++ rest)
      (by simp [hc]) (by simp [hpr, engineTx, hc, engineLoad, byteAddr_eq s.lat i hb]) (by simpa [hpr] using hf)
      (by simpa [hpr] using hu) hk
    simp only [hpr, engineAbsorb, hc, accumulate, countEngineDraw_eq, byteAddr_eq s.lat i hb] at h
    have hsent : s.lat.buf.toNat + i.val ∉ s.unordered →
        engineLoad (s.lat.buf.toNat + i.val) s = s.mem.read (s.lat.buf.toNat + i.val) := by
      intro hx
      simp [engineLoad, hx]
    cases rs with
    | nil =>
      unfold afterDataByte at h
      rw [dif_neg (by simp at hn; omega)] at h
      simp only [releaseBuffer] at h
      refine ⟨[engineLoad (s.lat.buf.toNat + i.val) s],
        if s.lat.buf.toNat + i.val ∈ s.unordered then s.draws + 1 else s.draws, rfl, ?_, ?_, ?_⟩
      · intro j hj
        obtain rfl : j = 0 := by simpa using hj
        simpa using hsent
      · intro hx
        exact if_neg (by simpa using hx 0)
      · rw [List.length_cons, engineRun_succ h]
        simp [engineRun, crc16Bytes]
    | cons q qs =>
      unfold afterDataByte at h
      simp only [List.length_cons] at hn
      rw [dif_pos (by omega)] at h
      obtain ⟨u, hs⟩ : ∃ u, engineStep s = .next u := ⟨_, h⟩
      have e := Host.Outcome.next.inj (h.symm.trans hs)
      have hrun : engineRun (r :: q :: qs).length s = engineRun (q :: qs).length u := engineRun_succ hs
      have hu' : u = { s with
          cont := .writeData ⟨i.val + 1, by omega⟩
          bus := { s.bus with width32 := w }
          crc16 := crc16Step s.crc16 (engineLoad (s.lat.buf.toNat + i.val) s)
          draws := if s.lat.buf.toNat + i.val ∈ s.unordered then s.draws + 1 else s.draws
          wire := s.wire ++ [.exchange s.bus.cs s.bus.speedOp s.bus.level (engineLoad (s.lat.buf.toNat + i.val) s) r]
          card := q :: qs ++ rest } := by
        rw [← e]
      obtain ⟨sent, d, h1, h2, h3, h4⟩ := ih ⟨i.val + 1, by omega⟩ u (by simpa [hu'] using hf) (by simpa [hu'] using hu)
        (by simp [hu']) (by simp only [List.length_cons]; omega) (by simp [hu']) (by simpa [hu'] using hb)
      rw [hrun, h4]
      subst hu'
      refine ⟨engineLoad (s.lat.buf.toNat + i.val) s :: sent, d, by simp [h1], ?_, ?_, ?_⟩
      · intro j hj hx
        cases j with
        | zero => exact hsent hx
        | succ j =>
          have ej : s.lat.buf.toNat + i.val + (j + 1) = s.lat.buf.toNat + (i.val + 1) + j := by omega
          rw [ej] at hx ⊢
          exact h2 j (by simpa using hj) hx
      · intro hx
        have h0 := hx 0 (by simp)
        rw [h3 (fun j hj => by
          have := hx (j + 1) (by simpa using hj)
          rwa [show s.lat.buf.toNat + i.val + (j + 1) = s.lat.buf.toNat + (i.val + 1) + j by omega] at this)]
        exact if_neg (by simpa using h0)
      · simp [crc16Bytes, exchanges]

end Sys2Proof.Laws
end

