-- ==== Sys2Proof/Machine/Program.lean ====
section
/-! DEFINITION. The Host's program syntax (spec/30_encoding.md R105, R106) and the Host sequences of
spec/44_data_phase.md R237, R247, R249 as lists of Host actions. They are notation over the machine's input: no
instruction's meaning uses them. -/
namespace Sys2Proof.Machine

/-- The register names of the window and their offsets (R32). -/
inductive Reg where
  | opcode | status | config | cmdIdx | cmdArg | data | bufAddr | resp0 | resp1 | dresp | crc7 | crc16 | busctl | fault
  deriving DecidableEq, Repr

/-- `offset(REG)` (R32). -/
def Reg.offset : Reg → Word
  | .opcode => 0x00
  | .status => 0x04
  | .config => 0x08
  | .cmdIdx => 0x0C
  | .cmdArg => 0x10
  | .data => 0x14
  | .bufAddr => 0x18
  | .resp0 => 0x1C
  | .resp1 => 0x20
  | .dresp => 0x24
  | .crc7 => 0x28
  | .crc16 => 0x2C
  | .busctl => 0x30
  | .fault => 0x34

/-- `WR <REG>, <imm32>` (R105). -/
def asmWr (p : Params) (r : Reg) (v : Word) : List HostAction :=
  [.store (p.blockBase + r.offset) .w32 v]

/-- `RD <REG>` (R105). -/
def asmRd (p : Params) (r : Reg) : List HostAction :=
  [.load (p.blockBase + r.offset) .w32]

/-- `OP <MNEMONIC>`, from the operation's code (R105). -/
def asmOp (p : Params) (code : BitVec 5) : List HostAction :=
  asmWr p .opcode (code.setWidth 32)

/-- `W1C`: clear DONE and ERR (R105). -/
def asmW1c (p : Params) : List HostAction :=
  asmWr p .status 0x6

/-- `MEMW <addr>, <bytes>` (R105). -/
def asmMemw (addr : Word) : List Byte → List HostAction
  | [] => []
  | b :: rest => .store addr .w8 (b.setWidth 32) :: asmMemw (addr + 1) rest

/-- `DO <MNEMONIC>` (R106). -/
def asmDo (p : Params) (code : BitVec 5) : List HostAction :=
  asmOp p code ++ [.waitDone]

/-- `CMD <idx>, <arg>, <rtype>` (R106). -/
def asmCmd (p : Params) (idx : BitVec 6) (arg : Word) (rtype : RespType) : List HostAction :=
  asmWr p .cmdIdx (CmdIdxReg.word { idx := idx, rtype := rtype }) ++ asmWr p .cmdArg arg ++ asmDo p 0x0D

/-- `ACMD <idx>, <arg>, <rtype>` (R106, R119). -/
def asmAcmd (p : Params) (idx : BitVec 6) (arg : Word) (rtype : RespType) : List HostAction :=
  asmCmd p 55 0 .r1 ++ asmCmd p idx arg rtype

/-- `XB <byte>` (R106). -/
def asmXb (p : Params) (b : Byte) : List HostAction :=
  asmWr p .data (b.setWidth 32) ++ asmDo p 0x07

/-- `RDBLK <addr>` (R106). -/
def asmRdblk (p : Params) (addr : Word) : List HostAction :=
  asmWr p .bufAddr addr ++ asmDo p 0x0E

/-- `WRBLK <addr>, <multi>` (R106). -/
def asmWrblk (p : Params) (addr : Word) (multi : Bool) : List HostAction :=
  asmWr p .bufAddr addr ++ asmWr p .data (if multi then 1 else 0) ++ asmOp p 0x0F

/-- The K READ_BLOCKs of a read, into consecutive 512-byte buffers, each ending the sequence on an error (R237). -/
def asmReadBlocks (p : Params) (buf : Word) : Nat → List HostAction
  | 0 => []
  | k + 1 => asmRdblk p buf ++ .stopOnErr :: asmReadBlocks p (buf + 512) k

/-- The Host read sequence for K blocks from sector A into buffer B; for K = 0 no operation (R237, R238). -/
def asmRead (p : Params) (buf sector : Word) (k : Nat) : List HostAction :=
  if k = 0 then []
  else
    asmDo p 0x03 ++ .stopOnErr :: asmCmd p (if k = 1 then 17 else 18) sector .r1 ++ .stopOnErr :: asmReadBlocks p buf k
      ++ (if k = 1 then [] else asmCmd p 12 0 .r1b ++ [.stopOnErr]) ++ asmDo p 0x04

/-- The WRITE_BLOCKs of a multi-block write, each with its barrier before the launch (R94, R247). -/
def asmWriteBlocks (p : Params) : List Word → List HostAction
  | [] => []
  | b :: rest => .dmb :: asmWrblk p b true ++ [.waitBuf, .waitDone, .stopOnErr] ++ asmWriteBlocks p rest

/-- The session break: the stop token, the busy poll, chip-select released (R249). -/
def asmClose (p : Params) : List HostAction :=
  asmDo p 0x10 ++ .stopOnErr :: asmDo p 0x04

/-- The Host write sequence from sector A of the buffers given, with the pre-erase hint if asked for; for no buffer no
operation (R238, R247, R248). -/
def asmWrite (p : Params) (sector : Word) (hint : Bool) : List Word → List HostAction
  | [] => []
  | [b] =>
    asmDo p 0x03 ++ .stopOnErr :: asmCmd p 24 sector .r1 ++ .stopOnErr :: .dmb :: asmWrblk p b false
      ++ [.waitDone, .stopOnErr] ++ asmDo p 0x04
  | bs =>
    asmDo p 0x03 ++ .stopOnErr ::
      (if hint then asmCmd p 55 0 .r1 ++ .stopOnErr :: asmCmd p 23 (BitVec.ofNat 32 bs.length) .r1 ++ [.stopOnErr]
       else [])
      ++ asmCmd p 25 sector .r1 ++ .stopOnErr :: asmWriteBlocks p bs ++ asmClose p

end Sys2Proof.Machine
end

