-- ==== Sys2Proof/Tests/Slice0.lean ====
section
/-! SUPPORT. The model's own tests. The expected values come from the spec: the encoding tables of spec/30_encoding.md, the
worked values of the rules, spec/95_test_vectors.md. Then, for every statement with hypotheses, states and operands that
meet them. -/
namespace Sys2Proof.Tests
open Sys2Proof.Machine Sys2Proof.Laws

/-! ### Well-formed and ill-formed terms -/

/-- A frame with its CRC of R172 is well formed; with another it is not, whatever its row. -/
theorem test_wellFormed_frame :
    (Instr.cmd0 0 0x4A).wellFormed = true ∧ (Instr.cmd0 0 0x4B).wellFormed = false ∧
    (Instr.cmd8 0x1AA 0x43).wellFormed = true ∧ (Instr.cmd8 0x1AA 0).wellFormed = false ∧
    (Instr.cmd59 1 0x41).wellFormed = true ∧ (Instr.cmd59 0 0x41).wellFormed = false ∧
    (Instr.cmd55 0 0x32).wellFormed = true ∧ (Instr.cmd55 0 0x33).wellFormed = false ∧
    (Instr.acmd41 0x40000000 0x3B).wellFormed = true ∧ (Instr.acmd41 0 0x3B).wellFormed = false ∧
    (Instr.cmd58 0 0x7E).wellFormed = true ∧ (Instr.cmd58 0 0x7F).wellFormed = false ∧
    (Instr.cmd16 0x200 0x0A).wellFormed = true ∧ (Instr.cmd16 0x200 0x0B).wellFormed = false := by
  decide +kernel

/-- The same for the commands of the data phase. -/
theorem test_wellFormed_data_frame :
    (Instr.cmd17 0 0x2A).wellFormed = true ∧ (Instr.cmd17 0 0x2B).wellFormed = false ∧
    (Instr.cmd18 0 0x70).wellFormed = true ∧ (Instr.cmd18 0 0x71).wellFormed = false ∧
    (Instr.cmd12 0 0x30).wellFormed = true ∧ (Instr.cmd12 0 0x31).wellFormed = false ∧
    (Instr.cmd24 0 0x37).wellFormed = true ∧ (Instr.cmd24 0 0x38).wellFormed = false ∧
    (Instr.cmd25 0 0x01).wellFormed = true ∧ (Instr.cmd25 0 0x02).wellFormed = false ∧
    (Instr.acmd23 8 0x5F).wellFormed = true ∧ (Instr.acmd23 9 0x5F).wellFormed = false := by
  decide +kernel

/-- The row of any index does not take an index with a row of its own, nor a wrong CRC. -/
theorem test_wellFormed_anyFrame :
    (Instr.sdFrame 9 0 0x57).wellFormed = true ∧ (Instr.sdFrame 9 0 0x58).wellFormed = false ∧
    (Instr.sdFrame 0 0 0x4A).wellFormed = false := by
  decide +kernel

/-- A data-response token has one of the three statuses of R117. -/
theorem test_wellFormed_response :
    (Instr.dataResponse 7 0b010).wellFormed = true ∧ (Instr.dataResponse 0 0b101).wellFormed = true ∧
    (Instr.dataResponse 0 0b110).wellFormed = true ∧ (Instr.dataResponse 0 0b000).wellFormed = false ∧
    (Instr.dataResponse 0 0b111).wellFormed = false := by
  decide

/-- An operation and a token have no ill-formed term. -/
theorem test_wellFormed_operation : Instr.nop.wellFormed = true ∧ Instr.reserved1F.wellFormed = true ∧
    Instr.stopToken.wellFormed = true := by
  decide

/-! ### Decoding: one word per constructor -/

/-- The operations 0x00 to 0x12 (R101); bits 31:5 are ignored. -/
theorem test_decode_operations :
    decode [0x00, 0, 0, 0] = .ok .nop ∧ decode [0xE1, 0, 0, 0] = .ok .busEnable ∧
    decode [0x02, 0xFF, 0, 0] = .ok .busDisable ∧ decode [0x03, 0, 0xFF, 0] = .ok .csAssert ∧
    decode [0x04, 0, 0, 0xFF] = .ok .csRelease ∧ decode [0x05, 0, 0, 0] = .ok .setSpeed ∧
    decode [0x06, 0, 0, 0] = .ok .idleClocks ∧ decode [0x07, 0, 0, 0] = .ok .xferByte ∧
    decode [0x08, 0, 0, 0] = .ok .xferWord ∧ decode [0x09, 0, 0, 0] = .ok .crc7Clear ∧
    decode [0x0A, 0, 0, 0] = .ok .crc7Feed ∧ decode [0x0B, 0, 0, 0] = .ok .crc16Clear ∧
    decode [0x0C, 0, 0, 0] = .ok .crc16Feed ∧ decode [0x0D, 0, 0, 0] = .ok .cmdSend ∧
    decode [0x0E, 0, 0, 0] = .ok .readBlock ∧ decode [0x0F, 0, 0, 0] = .ok .writeBlock ∧
    decode [0x10, 0, 0, 0] = .ok .stopTran ∧ decode [0x11, 0, 0, 0] = .ok .busyWait ∧
    decode [0x12, 0, 0, 0] = .ok .init := by
  decide

/-- The reserved codes 0x13 to 0x1F (R103). -/
theorem test_decode_reserved :
    decode [0x13, 0, 0, 0] = .ok .reserved13 ∧ decode [0x14, 0, 0, 0] = .ok .reserved14 ∧
    decode [0x15, 0, 0, 0] = .ok .reserved15 ∧ decode [0x16, 0, 0, 0] = .ok .reserved16 ∧
    decode [0x17, 0, 0, 0] = .ok .reserved17 ∧ decode [0x18, 0, 0, 0] = .ok .reserved18 ∧
    decode [0x19, 0, 0, 0] = .ok .reserved19 ∧ decode [0x1A, 0, 0, 0] = .ok .reserved1A ∧
    decode [0x1B, 0, 0, 0] = .ok .reserved1B ∧ decode [0x1C, 0, 0, 0] = .ok .reserved1C ∧
    decode [0x1D, 0, 0, 0] = .ok .reserved1D ∧ decode [0x1E, 0, 0, 0] = .ok .reserved1E ∧
    decode [0xFF, 0xFF, 0xFF, 0xFF] = .ok .reserved1F := by
  decide

/-- The command frames (R110, R211 to R223): 0x40 + the index, the argument most significant byte first, then the CRC
byte, whose bit 0 is 1. -/
theorem test_decode_frames :
    decode [0x49, 0x12, 0x34, 0x56, 0x78, 0x03] = .ok (.sdFrame 9 0x12345678 0x01) ∧
    decode [0x40, 0x00, 0x00, 0x00, 0x00, 0x95] = .ok (.cmd0 0 0x4A) ∧
    decode [0x48, 0x00, 0x00, 0x01, 0xAA, 0x87] = .ok (.cmd8 0x1AA 0x43) ∧
    decode [0x7B, 0x00, 0x00, 0x00, 0x01, 0x83] = .ok (.cmd59 1 0x41) ∧
    decode [0x77, 0x00, 0x00, 0x00, 0x00, 0x65] = .ok (.cmd55 0 0x32) ∧
    decode [0x69, 0x40, 0x00, 0x00, 0x00, 0x77] = .ok (.acmd41 0x40000000 0x3B) ∧
    decode [0x7A, 0x00, 0x00, 0x00, 0x00, 0xFD] = .ok (.cmd58 0 0x7E) ∧
    decode [0x50, 0x00, 0x00, 0x02, 0x00, 0x15] = .ok (.cmd16 0x200 0x0A) ∧
    decode [0x51, 0x00, 0x00, 0x00, 0x00, 0x55] = .ok (.cmd17 0 0x2A) ∧
    decode [0x52, 0x00, 0x00, 0x00, 0x00, 0xE1] = .ok (.cmd18 0 0x70) ∧
    decode [0x4C, 0x00, 0x00, 0x00, 0x00, 0x61] = .ok (.cmd12 0 0x30) ∧
    decode [0x58, 0x00, 0x00, 0x00, 0x00, 0x6F] = .ok (.cmd24 0 0x37) ∧
    decode [0x59, 0x00, 0x00, 0x00, 0x00, 0x03] = .ok (.cmd25 0 0x01) ∧
    decode [0x57, 0x00, 0x00, 0x00, 0x08, 0xBF] = .ok (.acmd23 8 0x5F) := by
  decide +kernel

/-- The tokens (R115, R117), and what is none. -/
theorem test_decode_tokens :
    decode [0xFE] = .ok .startToken ∧ decode [0xFC] = .ok .startTokenMulti ∧ decode [0xFD] = .ok .stopToken ∧
    decode [0xE5] = .ok (.dataResponse 7 0b010) ∧ decode [0x0D] = .ok (.dataResponse 0 0b110) ∧
    decode [0xFF] = .error .notAToken ∧ decode [0x00] = .error .notAToken ∧ decode [0x11] = .error .notAToken ∧
    decode [0x0E] = .error .notAToken := by
  decide

/-- Frames and lengths that are no instruction. -/
theorem test_decode_refused :
    decode [0x00, 0, 0, 0, 0, 0x95] = .error .badStartBits ∧ decode [0xC0, 0, 0, 0, 0, 0x95] = .error .badStartBits ∧
    decode [0x40, 0, 0, 0, 0, 0x94] = .error .badEndBit ∧ decode [] = .error .badLength ∧
    decode [0x40, 0] = .error .badLength ∧ decode [0, 0, 0] = .error .badLength ∧
    decode [0, 0, 0, 0, 0] = .error .badLength ∧ decode [0x40, 0, 0, 0, 0, 0x95, 0] = .error .badLength := by
  decide +kernel

/-- The words of the opcode table, as the table numbers their bits. -/
theorem test_table_words :
    decodeTableWord 5 0x12 = some .init ∧ decodeTableWord 32 0x0000001F = some .reserved1F ∧
    decodeTableWord 8 0xFE = some .startToken ∧ decodeTableWord 48 0x400000000095 = some (.cmd0 0 0x4A) := by
  decide +kernel

/-! ### States -/

/-- The predicate holds of the next state, where there is one. -/
def after (r : Result) (p : State → Bool) : Bool :=
  match r with
  | .next t => p t
  | .fault _ => false
  | .refused _ => false

/-- Small limits, within the domain. -/
def small : Params := { Params.default with
  ncrLimit := 2, busyFastSamples := 1, busyPollLimit := 1, tokenPollLimit := 2, drespLimit := 2, cmd0Limit := 3
  cmd0AbsentLimit := 2, cmd8Limit := 2, acmd41Limit := 2, cmd58Limit := 2, cmd16Limit := 2 }

/-- A Ready card on the operating clock at level 2, chip-select asserted, small limits. -/
def ready : State := { State.reset with
  params := small
  bus := { busEn := true, cs := true, speedOp := true, width32 := false, level := 2 }
  status := { Status.reset with cardState := .ready }
  wire := [.csChange true] }

/-- An operation that is not INIT, at one of its program points that own no buffer. -/
def runAt (c : Cont) : State := { ready with cont := c }

/-- READ_BLOCK or WRITE_BLOCK at a program point that owns the buffer at 0x1000. -/
def ownAt (op : BitVec 5) (c : Cont) : State := { ready with
  cont := c, lat := { ready.lat with op := op, buf := 0x1000 }, status := { ready.status with xfer := true } }

/-- INIT at a program point: its card state and clock, its attempt counts, its script. -/
def initAt (c : Cont) (card : CardState) (fast : Bool) (attempt absent : Nat) : State := { State.reset with
  params := small
  lat := { Latch.reset with op := 0x12 }
  bus := { busEn := true, cs := false, speedOp := fast, width32 := false, level := 0 }
  status := { Status.reset with cardState := card }
  init := { phase := .goIdle, attempt := attempt, absent := absent }
  cont := c
  card := [0xFF] }

/-- INIT after its transaction of cmd, with the results held, the frame's CRC in CRC7 and the card still selected. -/
def trailAt (cmd : InitCmd) (st : TxnStatus) (r1 : Byte) (tail : Option Word) (attempt absent : Nat) : State :=
  { initAt (.initTrail cmd st r1 tail { r0 := some r1, r1 := tail }) cmd.stage cmd.fastClock attempt absent with
    crc7 := frameCrc cmd.idx cmd.arg
    bus := { busEn := true, cs := true, speedOp := cmd.fastClock, width32 := false, level := 0 }
    wire := [.csChange true] }

/-- The machine after a fault. -/
def faulted : State := { State.reset with
  params := small, status := { Status.reset with fault := true }, faultCode := .busDisabled }

/-- The invariant as a check that can be evaluated. -/
def invCheck (s : State) : Bool :=
  (s.bus.busEn || !s.bus.cs) && ((s.bus.busEn || decide (s.status.cardState = .uninitialized)) &&
  ((!s.status.fault || (decide (s.cont = .idle) && !s.bus.busEn)) &&
  ((s.status.fault == decide (s.faultCode ≠ .none)) && ((s.status.err == decide (s.status.errCode ≠ .none)) &&
  ((decide (s.cont = .idle) || (!s.status.done && !s.status.err)) &&
  ((decide (s.cont = .idle) || (s.bus.busEn || decide (s.cont = .initClocks 0))) &&
  ((s.status.xfer == s.cont.ownsBuffer) && ((!s.status.poll) && ((!s.bus.width32 || s.cont.movesWords) &&
  ((decide (s.init.phase = .idle) || s.cont.runsInit) &&
  ((decide (s.cont = .idle) || (decide (s.lat.op = initCode) == s.cont.runsInit)) &&
  ((s.cont.stage?.all (fun c => decide (s.status.cardState = c))) &&
  ((s.cont.clock?.all (fun b => (s.bus.speedOp == b) && (!b || decide (s.bus.level = s.lat.level)))) &&
  ((s.cont.started?.all (fun c => decide (s.crc7 = Machine.frameCrc (c.idx s.lat) (c.arg s.lat)))) &&
  ((match s.cont with
    | .initTrail _ _ r1 tail p => decide (p.r0 = some r1) && decide (p.r1 = tail)
    | _ => true) &&
  ((!s.cont.ownsBuffer || (decide (s.lat.buf.toNat + 511 ≤ 0xFFFFFFFF) &&
      memAdmits s.params s.lat.buf.toNat sectorBytes)) &&
  ((s.bus.cs == csLevel s.wire) && (s.mem.wf && (s.params.inDomain && ((!s.cont.needsCs || s.bus.cs) &&
    s.cont.inBounds s.params))))))))))))))))))))

/-- A bit that equals a decision is set exactly when it holds. -/
theorem iff_of_beq {a : Bool} {p : Prop} [Decidable p] (h : (a == decide p) = true) : a = true ↔ p := by
  rw [beq_iff_eq] at h
  rw [h, decide_eq_true_eq]

/-- A state that passes the check is a state of the invariant. -/
theorem inv_of_check {s : State} (h : invCheck s = true) : s.Inv := by
  simp only [invCheck, Bool.and_eq_true] at h
  obtain ⟨h1, h2, h3, h4, h5, h6, h7, h8, h9, h10, h11, h12, h13, h14, h15, h16, h17, h18, h19,
    h20, h21, h22⟩ := h
  constructor
  case csNeedsBus => intro h; simpa [h] using h1
  case cardNeedsBus => intro h; simpa [h] using h2
  case faultHalts => intro h; simpa [h] using h3
  case faultCode => exact iff_of_beq h4
  case errCode => exact iff_of_beq h5
  case busyClears => intro h; simpa [h] using h6
  case busyHasBus => intro h; simpa [h] using h7
  case xferOwns => simpa using h8
  case pollBusy => intro h; simp [h] at h9
  case widthWord => intro h; simpa [h] using h10
  case phaseInit => intro h; simpa [h] using h11
  case opInit =>
    intro h
    simp only [h, decide_false, Bool.false_or] at h12
    rw [beq_iff_eq] at h12
    exact (iff_of_beq (beq_iff_eq.mpr h12.symm)).symm
  case stage => intro c h; simpa [h] using h13
  case clock =>
    intro b h
    have h14 : _ := h14
    rw [h] at h14
    cases b <;> simpa using h14
  case frameCrc => intro c h; simpa [h] using h15
  case held =>
    intro cmd st r1 tail p h
    rw [h] at h16
    simp only [Bool.and_eq_true, decide_eq_true_eq] at h16
    exact ⟨h16.1, fun v _ hv => h16.2.trans hv⟩
  case bufferFits => intro h; simpa [h] using h17
  case csWire => simpa using h18
  case memWf => exact h19
  case domain => exact h20
  case csHeld => intro h; simpa [h] using h21
  case bounds => exact h22

/-! ### One step per instruction

The state is `ready` or reset with the registers named; the expected values are those of the rule or vector named. -/

/-- V-S1. -/
theorem test_nop : after (exec .nop State.reset) (fun t => t.statusWord == 0x02 && t.wire == []) = true := by decide

/-- V-S2. -/
theorem test_busEnable : after (exec .busEnable State.reset) (fun t => t.bus.word == 0x01 && t.statusWord == 0x02) = true := by
  decide

/-- V-S10. -/
theorem test_busDisable : after (exec .busDisable ready) (fun t => t.bus.word == 0x20 && t.statusWord == 0x02 &&
    t.wire == [.csChange true, .csChange false]) = true := by decide

/-- V-S5, the second of the two. -/
theorem test_csAssert : after (exec .csAssert ready) (fun t => t.bus.cs && t.wire == [.csChange true]) = true := by decide

/-- R148: on a disabled bus the fault BUS_DISABLED, FAULT = 3. -/
theorem test_csAssert_disabled :
    after (exec .csAssert State.reset) (fun t => t.statusWord == 0x20 && t.faultCode.code == 3) = true := by decide

/-- R149. -/
theorem test_csRelease : after (exec .csRelease ready) (fun t => !t.bus.cs && t.wire == [.csChange true, .csChange false]) =
    true := by decide

/-- V-S12. -/
theorem test_csRelease_disabled : after (exec .csRelease State.reset) (fun t => t.statusWord == 0x02 && t.wire == []) = true := by
  decide

/-- V-S3. -/
theorem test_setSpeed : after (exec .setSpeed { State.reset with config := { ie := false, level := 2 }, data := 1 })
    (fun t => t.bus.word == 0x24 && !t.status.fault) = true := by decide

/-- R150: DATA[0] = 0 keeps LEVEL; the other bits are ignored. -/
theorem test_setSpeed_slow : after (exec .setSpeed { ready with config := { ie := false, level := 1 }, data := 0xFE })
    (fun t => t.bus.speedOp == false && t.bus.level == 2) = true := by decide

/-- V-S6: the launch, with count 0. -/
theorem test_idleClocks : after (exec .idleClocks { ready with data := 0x100 }) (fun t => decide (t.cont = .idleClocks 0) &&
    t.statusWord == 0xC1) = true := by decide

/-- V-S11. -/
theorem test_idleClocks_disabled :
    after (exec .idleClocks State.reset) (fun t => t.statusWord == 0x20 && t.faultCode.code == 3 && t.wire == []) = true := by
  decide

/-- V-S8, the exchange. -/
theorem test_xferByte : after (engineStep { runAt .xferByte with lat := { Latch.reset with data := 0x12FF }, card := [0x01] })
    (fun t => t.data == 0x00000001 && t.wire == [.csChange true, .exchange true true 2 0xFF 0x01]) = true := by decide

/-- V-S9, the last of its four exchanges. -/
theorem test_xferWord : after (engineStep { runAt (.xferWord 3 0x00C0B0A0) with
      lat := { Latch.reset with data := 0x44332211 }, card := [0xD0] })
    (fun t => t.data == 0xD0C0B0A0 && t.wire == [.csChange true, .exchange true true 2 0x44 0xD0]) = true := by decide

/-- V-C8. -/
theorem test_crc7Clear : after (exec .crc7Clear { State.reset with crc7 := 0x4A }) (fun t => t.crc7 == 0 &&
    t.statusWord == 0x02) = true := by decide

/-- V-C9. -/
theorem test_crc7Feed : after (exec .crc7Feed { State.reset with data := 0x12345640 }) (fun t => t.crc7 == 0x64) = true := by
  decide

/-- V-K11. -/
theorem test_crc16Clear : after (exec .crc16Clear { State.reset with crc16 := 0x7FA1 }) (fun t => t.crc16 == 0) = true := by
  decide

/-- V-K10. -/
theorem test_crc16Feed : after (exec .crc16Feed { State.reset with data := 0x01 }) (fun t => t.crc16 == 0x1021 &&
    t.statusWord == 0x02) = true := by decide

/-- R208, R314: the launch latches CMDIDX and CMDARG and clears DONE and ERR. -/
theorem test_cmdSend : after (exec .cmdSend { ready with
      cmdIdx := { idx := 17, rtype := .r1 }, cmdArg := 5, status := { ready.status with done := true } })
    (fun t => t.lat.idx == 17 && t.lat.arg == 5 && t.statusWord == 0xC1) = true := by decide

/-- R205: an R1 with an error bit ends CMD_SEND with R1_ERROR, ERRCODE 2, chip-select released. -/
theorem test_cmdSend_error : after (engineStep { runAt (.r1Poll .cmdSend 0) with card := [0x05] })
    (fun t => t.statusWord == 0x206 && t.resp0 == 0x05 && !t.bus.cs) = true := by decide

/-- V-K12 and R314: XFER is set, CRC16 is 0. -/
theorem test_readBlock : after (exec .readBlock { ready with crc16 := 0x1234, bufAddr := 0x1000 })
    (fun t => t.statusWord == 0xC9 && t.crc16 == 0) = true := by decide

/-- R232: data byte 3 goes to `lat.buf + 3` and into CRC16. -/
theorem test_readBlock_byte : after (engineStep { ownAt 0x0E (.readData 3) with card := [0x01] })
    (fun t => t.mem == [(0x1003, 0x01)] && t.crc16 == 0x1021 && decide (t.cont = .readData 4)) = true := by decide

/-- R88: a buffer that would wrap is DMA_BUS_ERROR, FAULT = 6. -/
theorem test_writeBlock_wrap : after (exec .writeBlock { ready with bufAddr := 0xFFFFFE01 }) (fun t => t.faultCode.code == 6 &&
    t.statusWord == 0x20) = true := by decide

/-- R190: the high byte of the CRC goes first. -/
theorem test_writeBlock_crc : after (engineStep { runAt .writeCrcHi with crc16 := 0x7FA1, card := [0xFF] })
    (fun t => t.wire == [.csChange true, .exchange true true 2 0x7F 0xFF]) = true := by decide

/-- R252: the stop token goes first. -/
theorem test_stopTran : after (engineStep { runAt .stopToken with card := [0x00] })
    (fun t => t.wire == [.csChange true, .exchange true true 2 0xFD 0x00] && decide (t.cont = .stopGap)) = true := by decide

/-- R252: STOP_TRAN needs a Ready card, FAULT = 4. -/
theorem test_stopTran_notReady : after (exec .stopTran { ready with status := Status.reset }) (fun t => t.faultCode.code == 4) =
    true := by decide

/-- R250, R251: POLL while polling, READY at the first 0xFF. -/
theorem test_busyWait : after (engineStep { runAt (.busy .busyWait 0) with card := [0xFF] })
    (fun t => t.statusWord == 0xC2 && t.bus.cs) = true := by decide

/-- R251: BUSY_WAIT with chip-select released is NOT_SELECTED, FAULT = 5. -/
theorem test_busyWait_released :
    after (exec .busyWait { ready with bus := { ready.bus with cs := false }, wire := [] }) (fun t => t.faultCode.code == 5) =
    true := by decide

/-- R270, R313: INIT has no launch requirement. -/
theorem test_init : after (exec .init State.reset) (fun t => t.statusWord == 0x01 && t.lat.op == 0x12) = true := by decide

/-- R272, R274: its first step enables the bus and sends a fill byte with chip-select released. -/
theorem test_init_start : after (engineStep { State.reset with cont := .initClocks 0, card := [0x55] })
    (fun t => t.bus.word == 0x01 && t.statusWord == 0x1001 && t.wire == [.exchange false false 0 0xFF 0x55]) = true := by
  decide

/-- R103: each reserved code is RESERVED_OP, FAULT = 2. -/
theorem test_reserved : ([.reserved13, .reserved14, .reserved15, .reserved16, .reserved17, .reserved18, .reserved19, .reserved1A,
      .reserved1B, .reserved1C, .reserved1D, .reserved1E, .reserved1F] : List Instr).all
    (fun i => after (exec i State.reset) (fun t => t.faultCode.code == 2 && t.statusWord == 0x20)) = true := by decide

/-- R316: while an operation runs a reserved code is OP_WHILE_BUSY, FAULT = 1. -/
theorem test_reserved_busy : after (exec .reserved13 (runAt (.stopToken))) (fun t => t.faultCode.code == 1) = true := by decide

/-- The index and response type a frame row launches with, and its argument. -/
def launches (i : Instr) (idx : BitVec 6) (t : RespType) (arg : Word) : Bool :=
  after (exec i ready) (fun s => s.lat.op == 0x0D && s.lat.idx == idx && decide (s.lat.rtype = t) && s.lat.arg == arg &&
    s.cmdIdx.idx == idx && s.cmdArg == arg)

/-- The frame rows launch CMD_SEND with the index, the response type and the argument of R211 to R223. -/
theorem test_frames :
    (launches (.sdFrame 13 1 0) 13 .r1 1 && launches (.cmd0 0 0x4A) 0 .r1 0 && launches (.cmd8 0x1AA 0x43) 8 .r3r7 0x1AA &&
    launches (.cmd59 1 0x41) 59 .r1 1 && launches (.cmd55 0 0x32) 55 .r1 0 &&
    launches (.acmd41 0x40000000 0x3B) 41 .r1 0x40000000 && launches (.cmd58 0 0x7E) 58 .r3r7 0 &&
    launches (.cmd16 0x200 0x0A) 16 .r1 0x200 && launches (.cmd17 1 0x23) 17 .r1 1 && launches (.cmd18 0 0x70) 18 .r1 0 &&
    launches (.cmd12 0 0x30) 12 .r1b 0 && launches (.cmd24 1 0x3E) 24 .r1 1 && launches (.cmd25 0x100 0x0A) 25 .r1 0x100 &&
    launches (.acmd23 8 0x5F) 23 .r1 8) = true := by decide

/-- R115, R120: the start token begins the data of a waiting READ_BLOCK; 0xFC there is TOKEN_FRAMING, ERRCODE 5. -/
theorem test_startToken : after (exec .startToken (ownAt 0x0E (.tokenWait 1))) (fun t => decide (t.cont = .readData 0)) = true ∧
    after (exec .startTokenMulti (ownAt 0x0E (.tokenWait 1))) (fun t => t.statusWord == 0x506 && t.data == 0xFC) = true := by
  decide

/-- R241: with DATA[0] = 1 WRITE_BLOCK sends 0xFC. -/
theorem test_startTokenMulti : after (exec .startTokenMulti { ownAt 0x0F .writeToken with
      lat := { Latch.reset with op := 0x0F, data := 1 }, card := [0xFF] })
    (fun t => t.wire == [.csChange true, .exchange true true 2 0xFC 0xFF]) = true := by decide

/-- R252: STOP_TRAN sends 0xFD. -/
theorem test_stopToken : after (exec .stopToken { runAt .stopToken with card := [0xFF] })
    (fun t => t.wire == [.csChange true, .exchange true true 2 0xFD 0xFF]) = true := by decide

/-- R117, R245: the token 0xE5 is accepted, 0x0B (a CRC error) is WRITE_REJECTED, ERRCODE 8. -/
theorem test_dataResponse :
    after (exec (.dataResponse 7 0b010) (runAt (.writeResp 0))) (fun t => t.dresp == 0xE5 &&
      decide (t.cont = .busy .writeBlock 0)) = true ∧
    after (exec (.dataResponse 0 0b101) (runAt (.writeResp 0))) (fun t => t.dresp == 0x0B && t.statusWord == 0x806 &&
      !t.bus.cs) = true := by decide

/-- R290: the good R1 of CMD0 moves the card to ResetAcknowledged. -/
theorem test_init_cmd0 : after (engineStep (trailAt .goIdle .ok 0x01 none 1 0))
    (fun t => t.status.cardState.code == 1 && decide (t.cont = .frame (.init .ifCond { r0 := some 0x01, r1 := none }) 0)) = true := by
  decide +kernel

/-- R275: the second CMD0 in a row with no answer is INIT_CARD_ABSENT, ERRCODE 9, where the limit is 2. -/
theorem test_init_absent : after (engineStep (trailAt .goIdle .timeout 0xFF none 2 1))
    (fun t => t.statusWord == 0x906 && t.bus.word == 0) = true := by decide +kernel

/-- A step decodes and runs the word that `withFetchWord` places. -/
theorem test_step : after (step (State.reset.withFetchWord 5 0x01)) (fun t => t.bus.word == 0x01) = true := by decide

/-- R81: a 16-bit Host store is little-endian. -/
theorem test_store : after (step { State.reset with hostq := [.store 0x1000 .w16 0xABCD1234] })
    (fun t => t.mem == [(0x1000, 0x34), (0x1001, 0x12)]) = true := by decide

/-- R94 (b): after DONE was seen a barrier orders the first buffer's byte at 0x1000, though the next READ_BLOCK has been
launched between the two; the byte at 0x3000, which the Engine wrote since, still waits. -/
theorem test_barrier_after_next_launch :
    after (step { ready with
        bufAddr := 0x2000, engStores := [0x1000], status := { ready.status with done := true }
        hostq := [.load 0x40000004 .w32] })
      (fun t => t.seenStores == [0x1000] && after (exec .readBlock t) (fun u =>
        after (step { u with hostq := [.dmb], engStores := 0x3000 :: u.engStores }) (fun v =>
          v.engStores == [0x3000] && v.status.xfer))) = true := by decide

/-- R90, R94 (b): a read of STATUS while XFER = 1 does not show the end of the transfer, and the barrier orders nothing. -/
theorem test_barrier_before_end :
    after (step { ownAt 0x0E (.tokenWait 0) with engStores := [0x1000], hostq := [.load 0x40000004 .w32] })
      (fun t => after (step { t with hostq := [.dmb] }) (fun u => u.engStores == [0x1000])) = true := by decide

/-- Every wait for an operation's end but the last is followed by the check that stops the sequence on ERR = 1. -/
def stopsOnErr : List HostAction → Bool
  | .waitDone :: .stopOnErr :: rest => stopsOnErr rest
  | .waitDone :: rest => rest.isEmpty
  | _ :: rest => stopsOnErr rest
  | [] => true

/-- R237, R247, R248: any step of a sequence that ends with ERR = 1 stops it, those of the pre-erase hint among them. -/
theorem test_sequences_stop : stopsOnErr (asmRead small 0x1000 5 1) = true ∧ stopsOnErr (asmRead small 0x1000 5 2) = true ∧
    stopsOnErr (asmWrite small 5 false [0x1000]) = true ∧ stopsOnErr (asmWrite small 5 true [0x1000, 0x1200]) = true := by
  decide

/-- R33: an 8-bit access to the window is REG_ACCESS, FAULT = 7. -/
theorem test_regAccess : after (step { State.reset with hostq := [.load 0x40000004 .w8] })
    (fun t => t.faultCode.code == 7 && t.rdata == 0) = true := by decide

/-! ### Witnesses: states and operands that meet the hypotheses of each statement, clause by clause -/

/-- The state with the Host's next action. -/
def acting (s : State) (a : HostAction) : State := { s with hostq := [a] }

/-- `ready` with chip-select released and nothing on the wire. -/
def released : State := { ready with bus := { ready.bus with cs := false }, wire := [] }

theorem witness_ResetAction : ∃ (s : State) (rest : List HostAction), s.params.inDomain = true ∧ s.hostq = .reset :: rest ∧
    s.busy = true ∧ s.mem ≠ [] :=
  ⟨{ acting (runAt .stopToken) .reset with mem := [(7, 1)] }, [], by decide, rfl, rfl, by decide⟩

theorem witness_StepRunsDecoded :
    (∃ (s : State) (i : Instr) (addr v : Word), s.params.inDomain = true ∧ s.hostq = [.store addr .w32 v] ∧
      windowOffset s.params addr = some 0 ∧ decode (wordBytes v) = .ok i) ∧
    (∃ (s : State) (i : Instr) (w : BitVec 48), s.params.inDomain = true ∧ s.hostq = [.frame w] ∧
      decode (frameWordBytes w) = .ok i) ∧
    (∃ (s : State) (i : Instr) (b : Byte), s.params.inDomain = true ∧ s.hostq = [.token b] ∧ decode [b] = .ok i) :=
  ⟨⟨acting ready (.store 0x40000000 .w32 0xFFFFFFFF), .reserved1F, 0x40000000, 0xFFFFFFFF, by decide, rfl, by decide, by decide⟩,
   ⟨acting ready (.frame 0x400000000095), .cmd0 0 0x4A, 0x400000000095, by decide, rfl, by decide +kernel⟩,
   ⟨acting ready (.token 0xFE), .startToken, 0xFE, by decide, rfl, by decide⟩⟩

theorem witness_FetchWordRuns : ready.params.inDomain = true ∧ decodeTableWord 5 0x12 = some .init ∧
    decodeTableWord 8 0x0B = some .crc16Clear ∧ decodeTableWord 8 0xFC = some .startTokenMulti ∧
    decodeTableWord 48 0x4C0000000061 = some (.cmd12 0 0x30) := by decide +kernel

theorem witness_DecodeEncode : (Instr.cmd12 0 0x30).wellFormed = true ∧ (Instr.dataResponse 7 0b110).wellFormed = true ∧
    (Instr.sdFrame 63 0xFFFFFFFF 0x0C).wellFormed = true ∧ Instr.reserved1F.wellFormed = true := by decide +kernel

theorem witness_EncodeDecode : decode [0x0D] = .ok (.dataResponse 0 0b110) ∧
    decode [0x7F, 0xFF, 0xFF, 0xFF, 0xFF, 0x19] = .ok (.sdFrame 63 0xFFFFFFFF 0x0C) := by decide +kernel

theorem witness_DecoderRejects :
    decode [0x10] = .error .notAToken ∧ decode [0x01] ≠ .error .notAToken ∧ (0x80#8 >>> 6) ≠ 1 ∧
    ((0x7F#8 >>> 6) = 1 ∧ (0xFE#8).getLsbD 0 = false) ∧ ((0x40#8 >>> 6) = 1 ∧ (0x01#8).getLsbD 0 = true) ∧
    ([] : List Byte).length ≠ 1 ∧ ([0, 0, 0, 0, 0, 0, 0] : List Byte).length ≠ 6 := by decide

theorem witness_FrameEncoding :
    (frameFields ready (.sdFrame 13 0 0x06) = some (13, .r1, 0) ∧ (Instr.sdFrame 13 0 0x06).wellFormed = true) ∧
    (frameFields ready (.cmd12 0 0x30) = some (12, .r1b, 0) ∧ (Instr.cmd12 0 0x30).wellFormed = true) := by decide +kernel

theorem witness_Crc7Laws : ([0x12, 0x34] : List Byte).length = ([0xAB, 0xCD] : List Byte).length ∧
    crc7Bytes 0 [0x40, 0x00, 0x00, 0x00, 0x00] = 0x4A := by decide +kernel

theorem witness_Crc16Laws : ([0x12, 0x34] : List Byte).length = ([0xAB, 0xCD] : List Byte).length ∧
    crc16Bytes 0 [0x01] = 0x1021 := by decide +kernel

theorem witness_LaunchCheckOrder :
    ((opCode .nop).isSome = true ∧ isReserved .reserved1F = true) ∧
    faulted.status.fault = true ∧
    ((runAt .stopToken).status.fault = false ∧ (runAt .stopToken).busy = true) ∧
    ready.accepting ∧
    (State.reset.accepting ∧ (launchRow .readBlock).bus = true ∧ State.reset.bus.busEn = false) ∧
    (∃ s : State, s.accepting ∧ s.bus.busEn = true ∧ (launchRow .stopTran).ready = true ∧ s.status.cardState ≠ .ready) ∧
    (∃ s : State, s.accepting ∧ s.bus.busEn = true ∧ s.status.cardState = .ready ∧ (launchRow .stopTran).cs = true ∧
      s.bus.cs = false) ∧
    (∃ s : State, s.accepting ∧ s.bus.busEn = true ∧ s.status.cardState = .ready ∧ s.bus.cs = true ∧
      (launchRow .writeBlock).buffer = true ∧ s.bufAddr = 0xFFFFFE01 ∧ ¬s.bufferAdmitted) ∧
    (∃ s : State, s.accepting ∧ s.bufAddr = 0xFFFFFE00 ∧ launchOk .readBlock s) ∧
    (∃ (s : State) (addr : Word), s.params.inDomain = true ∧ s.hostq = [.store addr .w8 0] ∧
      windowOffset s.params addr = some 0) :=
  ⟨by decide, rfl, ⟨rfl, rfl⟩, ⟨rfl, rfl⟩, ⟨⟨rfl, rfl⟩, rfl, rfl⟩,
   ⟨{ ready with status := Status.reset }, ⟨rfl, rfl⟩, rfl, rfl, by decide⟩,
   ⟨released, ⟨rfl, rfl⟩, rfl, rfl, rfl, rfl⟩,
   ⟨{ ready with bufAddr := 0xFFFFFE01 }, ⟨rfl, rfl⟩, rfl, rfl, rfl, rfl, rfl, fun h => absurd h.1 (by decide)⟩,
   ⟨{ ready with bufAddr := 0xFFFFFE00 }, ⟨rfl, rfl⟩, rfl, fun _ => rfl, fun _ => rfl, fun _ => rfl,
    fun _ => ⟨by decide, by decide⟩⟩,
   ⟨acting ready (.store 0x40000000 .w8 0), 0x40000000, by decide, rfl, by decide⟩⟩

theorem witness_LaunchActions : ready.accepting ∧ launchOk .idleClocks ready ∧ launchOk .xferByte ready ∧
    launchOk .xferWord ready ∧ launchOk .cmdSend ready ∧ launchOk .readBlock ready ∧ launchOk .writeBlock ready ∧
    launchOk .stopTran ready ∧ launchOk .busyWait ready ∧ (Cont.xferByte ≠ .idle) := by
  have h : ∀ i, launchOk i ready := fun i => ⟨fun _ => rfl, fun _ => rfl, fun _ => rfl, fun _ => ⟨by decide, by decide⟩⟩
  exact ⟨⟨rfl, rfl⟩, h _, h _, h _, h _, h _, h _, h _, h _, by decide⟩

theorem witness_ReservedCodes : isReserved .reserved13 = true ∧ ready.accepting ∧
    0x13 ≤ ((0x13#32).extractLsb' 0 5).toNat ∧ 0x13 ≤ ((0xFFFFFFFF#32).extractLsb' 0 5).toNat :=
  ⟨rfl, ⟨rfl, rfl⟩, by decide, by decide⟩

theorem witness_RaiseFault : (ready.status.fault = false ∧ ready.cont = .idle) ∧ (runAt .stopToken).status.fault = false ∧
    faulted.status.fault = true ∧
    (windowOffset small 0x40000004 = some 4 ∧ Width.w16 ≠ .w32) ∧ (windowOffset small 0x4000003F = some 63 ∧ 63 % 4 ≠ 0) ∧
    windowOffset faulted.params 0x40000008 = some 8 := by decide

theorem witness_NopCompletes : (0xFFFFFFE0#32).extractLsb' 0 5 = 0x00 ∧ ready.accepting := ⟨by decide, rfl, rfl⟩

theorem witness_BusEnable : (0x21#32).extractLsb' 0 5 = 0x01 ∧ ready.accepting ∧ ∃ t, exec .busEnable ready = .next t :=
  ⟨by decide, ⟨rfl, rfl⟩, _, rfl⟩

theorem witness_BusDisable : (0x02#32).extractLsb' 0 5 = 0x02 ∧ ready.accepting ∧ ready.status.cardState = .ready ∧
    ready.bus.level = 2 := ⟨by decide, ⟨rfl, rfl⟩, rfl, rfl⟩

theorem witness_ChipSelect : (0x03#32).extractLsb' 0 5 = 0x03 ∧ (0x04#32).extractLsb' 0 5 = 0x04 ∧
    (ready.accepting ∧ ready.bus.busEn = true) ∧ (State.reset.accepting ∧ State.reset.bus.busEn = false) :=
  ⟨by decide, by decide, ⟨⟨rfl, rfl⟩, rfl⟩, ⟨rfl, rfl⟩, rfl⟩

theorem witness_SetSpeed : (0x05#32).extractLsb' 0 5 = 0x05 ∧ (∃ s : State, s.accepting ∧ s.config.level = 2 ∧ s.data = 1) ∧
    (∃ s : State, s.accepting ∧ s.bus.busEn = false) :=
  ⟨by decide, ⟨{ ready with config := { ie := false, level := 2 }, data := 1 }, ⟨rfl, rfl⟩, rfl, rfl⟩,
    State.reset, ⟨rfl, rfl⟩, rfl⟩

theorem witness_Crc7Ops : (0x09#32).extractLsb' 0 5 = 0x09 ∧ (0x0A#32).extractLsb' 0 5 = 0x0A ∧ State.reset.accepting :=
  ⟨by decide, by decide, rfl, rfl⟩

theorem witness_Crc16Ops : (0x0B#32).extractLsb' 0 5 = 0x0B ∧ (0x0C#32).extractLsb' 0 5 = 0x0C ∧ State.reset.accepting :=
  ⟨by decide, by decide, rfl, rfl⟩

/-- Counts 0 and 2. -/
theorem witness_IdleClocks : (0x06#32).extractLsb' 0 5 = 0x06 ∧ (State.reset.accepting ∧ State.reset.bus.busEn = false) ∧
    (∃ (s : State) (rest : List Byte), s.accepting ∧ s.bus.busEn = true ∧
      ([] : List Byte).length = (s.data.extractLsb' 0 8).toNat ∧ s.card = [] ++ rest) ∧
    (∃ (s : State) (rest : List Byte), s.accepting ∧ s.bus.busEn = true ∧
      ([0x11, 0x22] : List Byte).length = (s.data.extractLsb' 0 8).toNat ∧ s.card = [0x11, 0x22] ++ rest) :=
  ⟨by decide, ⟨⟨rfl, rfl⟩, rfl⟩, ⟨{ ready with data := 0x100, card := [7] }, [7], ⟨rfl, rfl⟩, rfl, by decide, rfl⟩,
   ⟨{ ready with data := 2, card := [0x11, 0x22, 7] }, [7], ⟨rfl, rfl⟩, rfl, by decide, rfl⟩⟩

theorem witness_XferByte : (0x07#32).extractLsb' 0 5 = 0x07 ∧ (State.reset.accepting ∧ State.reset.bus.busEn = false) ∧
    ∃ s : State, s.accepting ∧ s.bus.busEn = true ∧ s.card = [0x01] :=
  ⟨by decide, ⟨⟨rfl, rfl⟩, rfl⟩, { ready with card := [0x01] }, ⟨rfl, rfl⟩, rfl, rfl⟩

theorem witness_XferWord : (0x08#32).extractLsb' 0 5 = 0x08 ∧ (State.reset.accepting ∧ State.reset.bus.busEn = false) ∧
    ∃ s : State, s.accepting ∧ s.bus.busEn = true ∧ s.data = 0x44332211 ∧ s.card = [0xA0, 0xB0, 0xC0, 0xD0] ++ [] ∧
      ∃ t u v, exec .xferWord s = .next t ∧ engineRun 1 t = .next u ∧ engineRun 3 t = .next v :=
  ⟨by decide, ⟨⟨rfl, rfl⟩, rfl⟩, { ready with data := 0x44332211, card := [0xA0, 0xB0, 0xC0, 0xD0] }, ⟨rfl, rfl⟩, rfl, rfl, rfl,
   _, _, _, rfl, rfl, rfl⟩

/-- CMD12 of CMD_SEND, and INIT's CMD0 and CMD59; then TIMEOUT and RERROR at the last poll the small bound allows, OK
with no tail at the first, and OK with the tail of CMD8. -/
theorem witness_FrameSent :
    (∀ c ∈ [Caller.cmdSend, .init .goIdle { r0 := none, r1 := none }, .init .crcOn { r0 := some 1, r1 := none }],
      ∃ (s : State) (rest : List Byte), s.status.fault = false ∧ s.bus.busEn = true ∧ s.cont = .frame c 0 ∧ s.lat.idx = 12 ∧
        (fills 6).length = 6 ∧ s.card = fills 6 ++ rest) ∧
    (∀ x ∈ ([(.goIdle, [0x80], [], 0xFF), (.appCmd, [0xFF], [], 0x05), (.opCond, [], [], 0x00),
          (.ifCond, [], [0, 0, 1, 0xAA], 0x01)] : List (InitCmd × List Byte × List Byte × Byte)),
      ∃ s : State, s.status.fault = false ∧ s.bus.busEn = true ∧
        s.cont = .r1Poll (.init x.1 { r0 := none, r1 := some 7 }) 0 ∧
        (∀ b ∈ x.2.1, b.getLsbD 7 = true) ∧ x.2.1.length < s.params.ncrLimit ∧
        s.card = x.2.1 ++ [x.2.2.2] ++ x.2.2.1 ++ []) ∧
    ((0xFF#8).getLsbD 7 = true ∧ ([0x80] : List Byte).length + 1 = small.ncrLimit) ∧
    ((0x05#8).getLsbD 7 = false ∧ 0x05#8 &&& 0x7E ≠ 0) ∧
    ((0x00#8).getLsbD 7 = false ∧ 0x00#8 &&& 0x7E = 0 ∧ InitCmd.opCond ≠ .ifCond ∧ InitCmd.opCond ≠ .readOcr) ∧
    ((0x01#8).getLsbD 7 = false ∧ 0x01#8 &&& 0x7E = 0 ∧
      ∃ a b c d : Byte, [0, 0, 1, 0xAA] = [a, b, c, d] ∧ some 0x1AA#32 = some (a ++ b ++ c ++ d)) := by
  refine ⟨fun c _ => ⟨{ runAt (.frame c 0) with lat := { Latch.reset with idx := 12 }, card := fills 6 }, [],
      rfl, rfl, rfl, rfl, rfl, rfl⟩, fun x hx => ?_, by decide, by decide, by decide,
    by decide, by decide, 0, 0, 1, 0xAA, rfl, by decide⟩
  refine ⟨{ runAt (.r1Poll (.init x.1 { r0 := none, r1 := some 7 }) 0) with
    card := x.2.1 ++ [x.2.2.2] ++ x.2.2.1 ++ [] }, rfl, rfl, rfl, ?_⟩
  simp only [List.mem_cons, List.not_mem_nil, or_false] at hx
  rcases hx with rfl | rfl | rfl | rfl <;> exact ⟨by decide, by decide, rfl⟩

/-- A frame is six bytes, and CMD12's is followed by a stuff byte (R110, R202). -/
theorem sentFrame_length (idx : BitVec 6) (arg : Word) :
    (fills (if idx = 12 then 7 else 6)).length = (sentFrame idx arg).length := by
  unfold sentFrame
  split <;> simp [fills, frameBytes, frameHeader]

/-- The four response types; R1b ends with the first 0xFF at its bound. -/
theorem witness_CmdSendSucceeds : ∀ p ∈ ([(.r1, []), (.r1b, [0x00, 0xFF]), (.r3r7, [0, 0, 1, 0xAA]), (.r2, [0x80])] :
      List (RespType × List Byte)),
    ∃ s : State, s.accepting ∧ s.bus.busEn = true ∧ s.cmdIdx.rtype = p.1 ∧
      (fills 7).length = (sentFrame s.cmdIdx.idx s.cmdArg).length ∧ (∀ b ∈ ([0xFF] : List Byte), b.getLsbD 7 = true) ∧
      ([0xFF] : List Byte).length < s.params.ncrLimit ∧ (0x01#8).getLsbD 7 = false ∧ 0x01#8 &&& 0x7E = 0 ∧
      goodTail s.params s.cmdIdx.rtype p.2 ∧ s.card = fills 7 ++ [0xFF] ++ [0x01] ++ p.2 ++ [] := by
  intro p hp
  refine ⟨{ ready with cmdIdx := { idx := 12, rtype := p.1 }, card := fills 7 ++ [0xFF] ++ [0x01] ++ p.2 ++ [] },
    ⟨rfl, rfl⟩, rfl, rfl, sentFrame_length 12 0, by decide, show 1 < 2 by decide, by decide, by decide, ?_, rfl⟩
  simp only [List.mem_cons, List.not_mem_nil, or_false] at hp
  rcases hp with rfl | rfl | rfl | rfl
  · rfl
  · exact ⟨[0x00], rfl, by decide, by decide⟩
  · rfl
  · rfl

/-- The step of R1b's busy poll before its last. -/
theorem witness_CmdSendSucceeds_poll : ∃ s t v : State,
    s.card = fills 6 ++ [0xFF] ++ [0x01] ++ [0x00, 0xFF] ++ [] ∧ s.cmdIdx.rtype = .r1b ∧ 6 + 1 + 1 < 9 ∧ 9 < 6 + 1 + 1 + 2 ∧
    exec .cmdSend s = .next t ∧ engineRun 9 t = .next v :=
  ⟨{ ready with cmdIdx := { idx := 9, rtype := .r1b }, card := fills 6 ++ [0xFF] ++ [0x01] ++ [0x00, 0xFF] ++ [] }, _, _,
   rfl, rfl, by decide, by decide, rfl, rfl⟩

/-- The same in a poll that fails. -/
theorem witness_CmdSendFails_poll : ∃ s t v : State,
    s.card = fills 6 ++ [] ++ [0x01] ++ [0x00, 0xFE] ++ [] ∧ 6 + 0 + 1 < 8 ∧ 8 < 6 + 0 + 1 + 2 ∧
    exec .cmdSend s = .next t ∧ engineRun 8 t = .next v :=
  ⟨{ ready with cmdIdx := { idx := 9, rtype := .r1b }, card := fills 6 ++ [] ++ [0x01] ++ [0x00, 0xFE] ++ [] }, _, _,
   rfl, by decide, by decide, rfl, rfl⟩

/-- The three errors, each at its bound. -/
theorem witness_CmdSendFails :
    (∃ s : State, s.accepting ∧ s.bus.busEn = true ∧ (fills 6).length = (sentFrame s.cmdIdx.idx s.cmdArg).length ∧
      (∀ b ∈ ([0x80] : List Byte), b.getLsbD 7 = true) ∧ (0xFF#8).getLsbD 7 = true ∧
      ([0x80] : List Byte).length + 1 = s.params.ncrLimit ∧ s.card = fills 6 ++ [0x80] ++ [0xFF] ++ [] ++ []) ∧
    (∃ s : State, s.accepting ∧ s.bus.busEn = true ∧ (fills 6).length = (sentFrame s.cmdIdx.idx s.cmdArg).length ∧
      0 < s.params.ncrLimit ∧ (0x40#8).getLsbD 7 = false ∧ 0x40#8 &&& 0x7E ≠ 0 ∧
      s.card = fills 6 ++ [] ++ [0x40] ++ [] ++ []) ∧
    (∃ s : State, s.accepting ∧ s.bus.busEn = true ∧ (fills 7).length = (sentFrame s.cmdIdx.idx s.cmdArg).length ∧
      0 < s.params.ncrLimit ∧ (0x00#8).getLsbD 7 = false ∧ 0x00#8 &&& 0x7E = 0 ∧ s.cmdIdx.rtype = .r1b ∧
      (∀ b ∈ ([0x00, 0xFE] : List Byte), b ≠ 0xFF) ∧
      ([0x00, 0xFE] : List Byte).length = s.params.busyFastSamples + s.params.busyPollLimit ∧
      s.card = fills 7 ++ [] ++ [0x00] ++ [0x00, 0xFE] ++ []) :=
  ⟨⟨{ ready with card := fills 6 ++ [0x80] ++ [0xFF] ++ [] ++ [] }, ⟨rfl, rfl⟩, rfl, sentFrame_length 0 0, by decide, by decide, by decide, rfl⟩,
   ⟨{ ready with card := fills 6 ++ [] ++ [0x40] ++ [] ++ [] }, ⟨rfl, rfl⟩, rfl, sentFrame_length 0 0, by decide, by decide, by decide, rfl⟩,
   ⟨{ ready with cmdIdx := { idx := 12, rtype := .r1b }, card := fills 7 ++ [] ++ [0x00] ++ [0x00, 0xFE] ++ [] }, ⟨rfl, rfl⟩,
    rfl, sentFrame_length 12 0, by decide, by decide, by decide, rfl, by decide, by decide, rfl⟩⟩

theorem witness_FrameRowsComplete : frameFields ready (.cmd58 0 0) = some (58, .r3r7, 0) ∧
    (ready.accepting ∧ ready.bus.busEn = true) ∧ (State.reset.accepting ∧ State.reset.bus.busEn = false) ∧
    ((runAt .stopToken).status.fault = false ∧ (runAt .stopToken).busy = true) ∧ faulted.status.fault = true :=
  ⟨rfl, ⟨⟨rfl, rfl⟩, rfl⟩, ⟨⟨rfl, rfl⟩, rfl⟩, ⟨rfl, rfl⟩, rfl⟩

theorem witness_FrameRowsOnWire : ∃ s : State, frameFields s (.cmd12 0 0x30) = some (12, .r1b, 0) ∧
    (Instr.cmd12 0 0x30).wellFormed = true ∧ s.accepting ∧ s.bus.busEn = true ∧ (fills 6).length = 6 ∧ s.card = fills 6 ++ [] :=
  ⟨{ released with card := fills 6 ++ [] }, rfl, by decide +kernel, ⟨rfl, rfl⟩, rfl, rfl, rfl⟩

/-- `ready` with a buffer at 0xFFFFFE00, the highest that does not wrap, a script, and unordered Host stores. -/
def blockState (card : List Byte) (stores : List Nat := []) : State :=
  { ready with bufAddr := 0xFFFFFE00, card := card, hostStores := stores }

theorem blockState_ok (card : List Byte) (stores : List Nat := []) :
    launchOk .readBlock (blockState card stores) ∧ launchOk .writeBlock (blockState card stores) := by
  have h : (blockState []).bufferAdmitted := ⟨by decide, by decide⟩
  exact ⟨⟨fun _ => rfl, fun _ => rfl, fun _ => rfl, fun _ => h⟩, ⟨fun _ => rfl, fun _ => rfl, fun _ => rfl, fun _ => h⟩⟩

/-- The launches of READ_BLOCK and WRITE_BLOCK there. -/
theorem blockState_launch (card : List Byte) (stores : List Nat) :
    (∃ t, exec .readBlock (blockState card stores) = .next t ∧ t.status.fault = false ∧ t.bus.busEn = true ∧
      t.cont = .tokenWait 0 ∧ t.params = small ∧ t.mem = [] ∧ t.lat.buf = 0xFFFFFE00 ∧ t.card = card) ∧
    (∃ t, exec .writeBlock (blockState card stores) = .next t ∧ t.status.fault = false ∧ t.bus.busEn = true ∧
      t.cont = .writeToken ∧ t.params = small ∧ t.lat.buf = 0xFFFFFE00 ∧ t.card = card) := by
  have hb : bufferOk (blockState []) = true := by decide
  have h := missing_none { bus := true, ready := true, cs := true, buffer := true } (blockState card stores)
    (fun _ => rfl) (fun _ => rfl) (fun _ => rfl) (fun _ => hb)
  refine ⟨⟨{ armData (latchOperands 0x0E (blockState card stores)) with cont := .tokenWait 0 }, ?_,
    rfl, rfl, rfl, rfl, rfl, rfl, rfl⟩,
    { armData (latchOperands 0x0F (blockState card stores)) with cont := .writeToken, unordered := stores }, ?_,
    rfl, rfl, rfl, rfl, rfl, rfl⟩
  · unfold exec execReadBlock
    exact launchSteps_go rfl rfl h
  · unfold exec execWriteBlock
    exact launchSteps_go rfl rfl h

/-- READ_BLOCK's run up to its last data byte answers a next state. -/
theorem readBlock_runs {t : State} {k : Nat} {bs rest : List Byte} (hf : t.status.fault = false) (hu : t.bus.busEn = true)
    (hc : t.cont = .tokenWait 0) (hk : k < t.params.tokenPollLimit) (hl : bs.length = 512) (hm : t.mem.wf = true)
    (hb : t.lat.buf.toNat + 511 ≤ 0xFFFFFFFF) (h : t.card = fills k ++ (0xFE :: (bs ++ rest))) :
    ∃ v, engineRun (k + 1 + 512) t = .next v := by
  have h1 := run_tokenWait k (0xFE :: (bs ++ rest)) 0 t hf hu hc (by omega) h
  have h2 := engineStep_plain (s := { t with
      cont := .tokenWait (0 + k), card := 0xFE :: (bs ++ rest)
      wire := t.wire ++ exchanges t.bus.cs t.bus (fills k) (fills k) }) (tx := 0xFF) (rx := 0xFE) (rest := bs ++ rest)
    (by simp) rfl rfl hf hu rfl
  obtain ⟨m, e, f, h3, -⟩ := run_readData rest bs 0 (engineAbsorb 0xFF 0xFE { t with
      cont := .tokenWait (0 + k), card := bs ++ rest
      wire := t.wire ++ exchanges t.bus.cs t.bus (fills k) (fills k)
        ++ [.exchange t.bus.cs t.bus.speedOp t.bus.level 0xFF 0xFE] }) hf hu rfl (by rw [hl]; rfl) rfl hm hb
  rw [hl] at h3
  rw [Nat.add_assoc, engineRun_add h1, Nat.add_comm, engineRun_succ h2]
  exact ⟨_, h3⟩

/-- The token after the most fill bytes the small bound allows; the states before the token, at the first data byte and
after the last. -/
theorem witness_ReadBlockTransfers : ∃ (s t : State) (block : List Byte), s.accepting ∧ launchOk .readBlock s ∧
    s.mem.wf = true ∧ 1 < s.params.tokenPollLimit ∧ block.length = 512 ∧
    s.card = fills 1 ++ [0xFE] ++ block ++ [0x7F, 0xA1] ++ [] ∧ exec .readBlock s = .next t ∧
    (∃ v, engineRun 1 t = .next v) ∧ ∃ v, engineRun (1 + 1 + 512) t = .next v := by
  obtain ⟨block, hl⟩ : ∃ l : List Byte, l.length = 512 := ⟨fills 512, fills_length 512⟩
  obtain ⟨t, h1, hf, hu, hc, hp, hm, hb, hk⟩ :=
    (blockState_launch (fills 1 ++ [0xFE] ++ block ++ [0x7F, 0xA1] ++ []) []).1
  have h2 := run_tokenWait 1 (0xFE :: (block ++ [0x7F, 0xA1])) 0 t hf hu hc (by rw [hp]; decide) (hk.trans (by simp))
  exact ⟨_, t, block, ⟨rfl, rfl⟩, (blockState_ok _).1, rfl, Nat.lt_add_one 1, hl, rfl, h1, ⟨_, h2⟩,
    readBlock_runs (k := 1) hf hu hc (by rw [hp]; decide) hl (by rw [hm]; rfl) (by rw [hb]; decide) (rest := [0x7F, 0xA1])
      (hk.trans (by simp))⟩

theorem witness_ReadBlockTokenErrors :
    (∃ s : State, s.accepting ∧ launchOk .readBlock s ∧ 1 < s.params.tokenPollLimit ∧ 1 + 1 = s.params.tokenPollLimit ∧
      s.card = fills 1 ++ [0xFF] ++ []) ∧
    (∃ s : State, s.accepting ∧ launchOk .readBlock s ∧ 0 < s.params.tokenPollLimit ∧ 0xFC#8 ≠ 0xFF ∧ 0xFC#8 ≠ 0xFE ∧
      s.card = fills 0 ++ [0xFC] ++ []) :=
  ⟨⟨blockState (fills 1 ++ [0xFF] ++ []), ⟨rfl, rfl⟩, (blockState_ok _).1, by decide, by decide, rfl⟩,
   ⟨blockState (fills 0 ++ [0xFC] ++ []), ⟨rfl, rfl⟩, (blockState_ok _).1, by decide, by decide, by decide, rfl⟩⟩

/-- WRITE_BLOCK's run up to its last data byte answers a next state, and so does the one that goes on over its CRC and the
token 0xE5 into the busy poll. -/
theorem writeBlock_runs {t : State} {rxs rest : List Byte} (hf : t.status.fault = false) (hu : t.bus.busEn = true)
    (hc : t.cont = .writeToken) (hl : rxs.length = 512) (hb : t.lat.buf.toNat + 511 ≤ 0xFFFFFFFF)
    (hp : t.params = small) (h : t.card = 0 :: (rxs ++ (0 :: 0 :: 0xE5 :: 0 :: rest))) :
    (∃ v, engineRun (1 + 512) t = .next v) ∧ ∃ v, engineRun (1 + 512 + 4) t = .next v := by
  have h1 := engineStep_plain (tx := t.lat.startToken) (by simp [hc]) (by simp [enginePrepare, hc]) (by simp [engineTx, hc])
    hf hu h
  simp only [engineAbsorb, hc] at h1
  obtain ⟨u, hu1⟩ : ∃ u, engineStep t = .next u := ⟨_, h1⟩
  have e := Host.Outcome.next.inj (h1.symm.trans hu1)
  obtain ⟨sent, d, -, -, -, h2⟩ := run_writeData (0 :: 0 :: 0xE5 :: 0 :: rest) rxs 0 u (by rw [← e]; exact hf)
    (by rw [← e]; exact hu) (by rw [← e]) (by rw [hl]; rfl) (by rw [← e]) (by rw [← e]; exact hb)
  rw [hl] at h2
  have h3 := (engineRun_add (n := 512) ((engineRun_one t).trans hu1)).trans h2
  refine ⟨⟨_, h3⟩, ?_⟩
  rw [engineRun_add h3, ← e]
  cases t
  simp only at hp hf hu
  subst hp
  simp [engineRun, engineStep, State.busy, enginePrepare, engineTx, hf, hu, exchange, cardAnswer, engineAbsorb, small,
    Params.default, fill, responseAccepted, busyBound]

/-- An ordered buffer, and one with a byte that no barrier ordered; the states before the data, after the last data byte,
and within the busy poll. -/
theorem witness_WriteBlockTransfers : ∀ l ∈ [[], [0xFFFFFFFF]], ∃ (s t : State) (skipped : List Byte), s.accepting ∧
    launchOk .writeBlock s ∧ s.hostStores = l ∧ s.bufAddr.toNat + 0 ∉ s.hostStores ∧
    (s.bufAddr.toNat + 511 ∈ s.hostStores ↔ l ≠ []) ∧
    skipped.length = 515 ∧ 0 < s.params.drespLimit ∧ 0xE5#8 ≠ 0xFF ∧ 0xE5#8 &&& 0x1F = 0x05 ∧
    (∀ b ∈ ([0x00] : List Byte), b ≠ 0xFF) ∧
    ([0x00] : List Byte).length < s.params.busyFastSamples + s.params.busyPollLimit ∧
    s.card = skipped ++ fills 0 ++ [0xE5] ++ [0x00] ++ [0xFF] ++ [] ∧ exec .writeBlock s = .next t ∧
    (∃ v, engineRun 0 t = .next v) ∧ (∃ v, engineRun (1 + 512) t = .next v) ∧
    ∃ v, engineRun (515 + 0 + 1 + 1) t = .next v := by
  intro l hm
  obtain ⟨rxs, hl⟩ : ∃ l : List Byte, l.length = 512 := ⟨fills 512, fills_length 512⟩
  obtain ⟨t, h1, hf, hu, hc, hp, hb, hk⟩ :=
    (blockState_launch ((0 :: (rxs ++ [0, 0])) ++ fills 0 ++ [0xE5] ++ [0x00] ++ [0xFF] ++ []) l).2
  obtain ⟨h2, h3⟩ := writeBlock_runs hf hu hc hl (by rw [hb]; decide) hp (rest := [0xFF]) (hk.trans (by simp))
  refine ⟨_, t, 0 :: (rxs ++ [0, 0]), ⟨rfl, rfl⟩, (blockState_ok _ _).2, rfl, ?_, ?_, by simp [hl], Nat.zero_lt_two,
    by decide, by decide, by decide, Nat.lt_add_one 1, rfl, h1, ⟨_, rfl⟩, h2, h3⟩ <;>
  · simp only [List.mem_cons, List.not_mem_nil, or_false] at hm
    rcases hm with rfl | rfl <;> simp [blockState]

theorem witness_WriteBlockFails :
    (∃ s : State, s.accepting ∧ launchOk .writeBlock s ∧ (fills 515).length = 515 ∧
      1 + 1 = s.params.drespLimit ∧ s.card = fills 515 ++ fills 1 ++ [0xFF] ++ [] ++ []) ∧
    (∃ s : State, s.accepting ∧ launchOk .writeBlock s ∧ (fills 515).length = 515 ∧
      0 < s.params.drespLimit ∧ 0x0B#8 ≠ 0xFF ∧ 0x0B#8 &&& 0x1F ≠ 0x05 ∧
      s.card = fills 515 ++ fills 0 ++ [0x0B] ++ [] ++ []) ∧
    (∃ s : State, s.accepting ∧ launchOk .writeBlock s ∧ (fills 515).length = 515 ∧
      0 < s.params.drespLimit ∧ 0x05#8 ≠ 0xFF ∧ 0x05#8 &&& 0x1F = 0x05 ∧ (∀ b ∈ ([0, 0] : List Byte), b ≠ 0xFF) ∧
      ([0, 0] : List Byte).length = s.params.busyFastSamples + s.params.busyPollLimit ∧
      s.card = fills 515 ++ fills 0 ++ [0x05] ++ [0, 0] ++ []) :=
  ⟨⟨blockState (fills 515 ++ fills 1 ++ [0xFF] ++ [] ++ []), ⟨rfl, rfl⟩, (blockState_ok _).2, fills_length 515, by decide, rfl⟩,
   ⟨blockState (fills 515 ++ fills 0 ++ [0x0B] ++ [] ++ []), ⟨rfl, rfl⟩, (blockState_ok _).2, fills_length 515, by decide,
    by decide, by decide, rfl⟩,
   ⟨blockState (fills 515 ++ fills 0 ++ [0x05] ++ [0, 0] ++ []), ⟨rfl, rfl⟩, (blockState_ok _).2, fills_length 515,
    by decide, by decide, by decide, by decide, by decide, rfl⟩⟩

/-- No busy byte, the most below the bound, and the bound. -/
theorem witness_BusyWait : (0x11#32).extractLsb' 0 5 = 0x11 ∧
    (State.reset.accepting ∧ State.reset.bus.busEn = false) ∧
    (∃ s : State, s.accepting ∧ s.bus.busEn = true ∧ s.bus.cs = false) ∧
    (∃ s : State, s.accepting ∧ launchOk .busyWait s ∧ s.card = [] ++ [0xFF] ++ []) ∧
    (∃ s : State, s.accepting ∧ launchOk .busyWait s ∧ (∀ b ∈ ([0x00] : List Byte), b ≠ 0xFF) ∧
      ([0x00] : List Byte).length < s.params.busyFastSamples + s.params.busyPollLimit ∧ s.card = [0x00] ++ [0xFF] ++ [] ∧
      ∃ t u, exec .busyWait s = .next t ∧ engineRun 1 t = .next u) ∧
    (∃ s : State, s.accepting ∧ launchOk .busyWait s ∧ (∀ b ∈ ([0x00, 0x01] : List Byte), b ≠ 0xFF) ∧
      ([0x00, 0x01] : List Byte).length = s.params.busyFastSamples + s.params.busyPollLimit ∧ s.card = [0x00, 0x01] ++ []) := by
  have h : ∀ l, launchOk .busyWait { ready with card := l } :=
    fun l => ⟨fun _ => rfl, fun h => absurd h (by decide), fun _ => rfl, fun h => absurd h (by decide)⟩
  exact ⟨by decide, ⟨⟨rfl, rfl⟩, rfl⟩,
    ⟨{ State.reset with bus := BusCtl.reset.only true }, ⟨rfl, rfl⟩, rfl, rfl⟩, ⟨{ ready with card := [0xFF] }, ⟨rfl, rfl⟩, h _, rfl⟩,
    ⟨{ ready with card := [0x00, 0xFF] }, ⟨rfl, rfl⟩, h _, by decide, by decide, rfl, _, _, rfl, rfl⟩,
    ⟨{ ready with card := [0x00, 0x01] }, ⟨rfl, rfl⟩, h _, by decide, by decide, rfl⟩⟩

theorem witness_StopTran : (0x10#32).extractLsb' 0 5 = 0x10 ∧
    (State.reset.accepting ∧ State.reset.bus.busEn = false) ∧
    (∃ s : State, s.accepting ∧ s.bus.busEn = true ∧ s.status.cardState ≠ .ready) ∧
    (∃ s : State, s.accepting ∧ s.bus.busEn = true ∧ s.status.cardState = .ready ∧ s.bus.cs = false) ∧
    (∃ s : State, s.accepting ∧ launchOk .stopTran s ∧ (∀ b ∈ ([0x00] : List Byte), b ≠ 0xFF) ∧
      ([0x00] : List Byte).length < s.params.busyFastSamples + s.params.busyPollLimit ∧
      s.card = [1, 2] ++ [0x00] ++ [0xFF] ++ [] ∧ ∃ t u, exec .stopTran s = .next t ∧ engineRun 3 t = .next u) ∧
    (∃ s : State, s.accepting ∧ launchOk .stopTran s ∧ (∀ b ∈ ([0x00, 0x01] : List Byte), b ≠ 0xFF) ∧
      ([0x00, 0x01] : List Byte).length = s.params.busyFastSamples + s.params.busyPollLimit ∧
      s.card = [1, 2] ++ [0x00, 0x01] ++ []) := by
  have h : ∀ l, launchOk .stopTran { ready with card := l } :=
    fun l => ⟨fun _ => rfl, fun _ => rfl, fun _ => rfl, fun h => absurd h (by decide)⟩
  exact ⟨by decide, ⟨⟨rfl, rfl⟩, rfl⟩,
    ⟨{ State.reset with bus := BusCtl.reset.only true }, ⟨rfl, rfl⟩, rfl, by decide⟩,
    ⟨{ ready with bus := BusCtl.reset.only true }, ⟨rfl, rfl⟩, rfl, rfl, rfl⟩,
    ⟨{ ready with card := [1, 2, 0x00, 0xFF] }, ⟨rfl, rfl⟩, h _, by decide, by decide, rfl, _, _, rfl, rfl⟩,
    ⟨{ ready with card := [1, 2, 0x00, 0x01] }, ⟨rfl, rfl⟩, h _, by decide, by decide, rfl⟩⟩

theorem witness_TokenRows :
    (encode .startToken = [0xFE] ∧ ready.Inv ∧ ready.cont = .idle) ∧
    (encode .startTokenMulti = [0xFC] ∧ (ownAt 0x0E (.tokenWait 0)).Inv ∧ (ownAt 0x0E (.tokenWait 0)).cont = .tokenWait 0) ∧
    (encode .stopToken = [0xFD] ∧ engineTx (enginePrepare (runAt .stopToken)) = some 0xFD) ∧
    (encode (.dataResponse 7 2) = [0xE5] ∧ engineTx (enginePrepare (runAt (.writeResp 1))) ≠ some 0xE5) ∧
    ((ownAt 0x0E (.tokenWait 1)).status.fault = false ∧ (ownAt 0x0E (.tokenWait 1)).bus.busEn = true) ∧
    (∃ s : State, s.status.fault = false ∧ s.bus.busEn = true ∧ s.cont = .writeToken ∧ s.card = [0xFF] ∧
      s.lat.data.getLsbD 0 = false) ∧
    (∃ s : State, s.status.fault = false ∧ s.bus.busEn = true ∧ s.cont = .writeToken ∧ s.card = [0xFF] ∧
      s.lat.data.getLsbD 0 = true) ∧
    (∃ s : State, s.status.fault = false ∧ s.bus.busEn = true ∧ s.cont = .stopToken ∧ s.card = [0xFF]) ∧
    ((runAt (.writeResp 0)).Inv ∧ (runAt (.writeResp 0)).cont = .writeResp 0 ∧ 0xE5#8 = 7#3 ++ 0#1 ++ 2#3 ++ 1#1 ∧
      0xE5#8 &&& 0x1F = 0x05 ∧ 0x0B#8 = 0#3 ++ 0#1 ++ 5#3 ++ 1#1 ∧ 0x0B#8 &&& 0x1F ≠ 0x05) :=
  ⟨⟨rfl, inv_of_check (by decide), rfl⟩, ⟨rfl, inv_of_check (by decide), rfl⟩, ⟨rfl, by decide⟩, ⟨by decide, by decide⟩,
   ⟨rfl, rfl⟩,
   ⟨{ ownAt 0x0F .writeToken with card := [0xFF] }, rfl, rfl, rfl, rfl, by decide⟩,
   ⟨{ ownAt 0x0F .writeToken with lat := { Latch.reset with data := 1 }, card := [0xFF] }, rfl, rfl, rfl, rfl, by decide⟩,
   ⟨{ runAt .stopToken with card := [0xFF] }, rfl, rfl, rfl, rfl⟩,
   ⟨inv_of_check (by decide), rfl, by decide, by decide, by decide, by decide⟩⟩

theorem witness_InitClocks : ∃ (s : State) (rest : List Byte), s.params.inDomain = true ∧ s.accepting ∧
    (fills 10).length = s.params.idleClockBytes ∧ s.card = fills 10 ++ rest ∧ s.bus.cs = true :=
  ⟨{ ready with card := fills 10 ++ [1] }, [1], by decide, ⟨rfl, rfl⟩, rfl, rfl, rfl⟩

/-- Each phase with its success, its last failure and a failure before it; phase b with both of its limits. -/
theorem witness_InitPhases :
    ([(InitCmd.goIdle, TxnStatus.ok, 0x01, none, 1, 0), (.goIdle, .timeout, 0xFF, none, 1, 1), (.goIdle, .ok, 0x00, none, 3, 0),
      (.goIdle, .timeout, 0xFF, none, 2, 0), (.ifCond, .ok, 0x01, some 0xFFFFF1AA, 1, 0), (.ifCond, .ok, 0x01, some 0x1AB, 2, 0),
      (.ifCond, .rerror, 0x05, none, 1, 0), (.crcOn, .ok, 0x01, none, 0, 0), (.crcOn, .rerror, 0x05, none, 0, 0),
      (.appCmd, .ok, 0x01, none, 1, 0), (.appCmd, .timeout, 0xFF, none, 2, 0), (.appCmd, .timeout, 0xFF, none, 1, 0),
      (.opCond, .ok, 0x00, none, 1, 0), (.opCond, .ok, 0x01, none, 2, 0), (.opCond, .ok, 0x01, none, 1, 0),
      (.readOcr, .ok, 0x00, some 0xC0FF8000, 1, 0), (.readOcr, .ok, 0x01, some 0, 2, 0), (.readOcr, .rerror, 0x04, none, 1, 0),
      (.blockLen, .ok, 0x00, none, 1, 0), (.blockLen, .ok, 0x01, none, 2, 0), (.blockLen, .rerror, 0x04, none, 1, 0)] :
      List (InitCmd × TxnStatus × Byte × Option Word × Nat × Nat)).all
    (fun (m, st, r, tl, a, n) => let s := trailAt m st r tl a n
      !s.status.fault && s.bus.busEn && decide (s.cont = .initTrail m st r tl { r0 := some r, r1 := tl }) &&
      decide (s.init.attempt = a) && decide (s.init.absent = n) && s.params.inDomain) = true := by decide

theorem witness_InitSpeedUp : (initAt (.speedUp { r0 := none, r1 := none }) .voltageNegotiated false 2 0).cont =
    .speedUp { r0 := none, r1 := none } := rfl

/-- The last failing CMD16, and the good one. -/
theorem witness_InitEnds : ∀ r ∈ ([0x01, 0x00] : List Byte), ∃ s t : State, s.Inv ∧ s.cont.runsInit = true ∧
    engineStep s = .next t ∧ t.cont = .idle ∧ t.status.err = decide (r = 0x01) := by
  intro r hr
  simp only [List.mem_cons, List.not_mem_nil, or_false] at hr
  rcases hr with rfl | rfl
  · exact ⟨trailAt .blockLen .ok 0x01 none 2 0, _, inv_of_check (by decide +kernel), rfl, rfl, rfl, rfl⟩
  · exact ⟨trailAt .blockLen .ok 0x00 none 2 0, _, inv_of_check (by decide +kernel), rfl, rfl, rfl, rfl⟩

theorem witness_InvStep :
    (∃ s t : State, s.Inv ∧ step s = .next t ∧ s.cont = .tokenWait 1 ∧ t.cont = .readData 0) ∧
    (∃ t, faulted.Inv ∧ step faulted = .next t) :=
  ⟨⟨{ ownAt 0x0E (.tokenWait 1) with card := [0xFE] }, _, inv_of_check (by decide), rfl, rfl, rfl⟩,
   ⟨_, inv_of_check (by decide), rfl⟩⟩

/-- Each way back to Uninitialized and each way forward. -/
theorem witness_CardStateMoves :
    (∀ s ∈ [{ ready with cont := .initClocks 0, lat := { Latch.reset with op := 0x12 }, card := [0xFF] },
            { runAt (.r1Poll .cmdSend 0) with crc7 := frameCrc 0 0, card := [0x05] },
            acting ready (.store 0x40000000 .w32 0x02), acting ready (.store 0x40000000 .w32 0x13), acting ready .reset],
      ∃ t, s.Inv ∧ step s = .next t ∧ s.status.cardState = .ready ∧ t.status.cardState = .uninitialized) ∧
    (∃ t, (trailAt .goIdle .ok 0x01 none 1 0).Inv ∧ step (trailAt .goIdle .ok 0x01 none 1 0) = .next t ∧
      t.status.cardState = .resetAcknowledged) ∧
    (∃ t, (trailAt .ifCond .ok 0x01 (some 0x1AA) 1 0).Inv ∧ step (trailAt .ifCond .ok 0x01 (some 0x1AA) 1 0) = .next t ∧
      t.status.cardState = .voltageNegotiated) ∧
    (∃ t, (trailAt .blockLen .ok 0x00 none 1 0).Inv ∧ step (trailAt .blockLen .ok 0x00 none 1 0) = .next t ∧
      t.status.cardState = .ready) := by
  refine ⟨?_, ⟨_, inv_of_check (by decide +kernel), rfl, rfl⟩, ⟨_, inv_of_check (by decide +kernel), rfl, rfl⟩,
    ⟨_, inv_of_check (by decide +kernel), rfl, rfl⟩⟩
  intro s hs
  simp only [List.mem_cons, List.not_mem_nil, or_false] at hs
  rcases hs with rfl | rfl | rfl | rfl | rfl
  · exact ⟨_, inv_of_check (by decide), rfl, rfl, rfl⟩
  · exact ⟨_, inv_of_check (by decide +kernel), rfl, rfl, rfl⟩
  · exact ⟨_, inv_of_check (by decide), rfl, rfl, rfl⟩
  · exact ⟨_, inv_of_check (by decide), rfl, rfl, rfl⟩
  · exact ⟨_, inv_of_check (by decide), rfl, rfl, rfl⟩

theorem witness_FaultIsFinal : ∃ t, (acting faulted (.store 0x40000014 .w32 5)).Inv ∧
    (acting faulted (.store 0x40000014 .w32 5)).status.fault = true ∧ step (acting faulted (.store 0x40000014 .w32 5)) = .next t ∧
    (acting faulted (.store 0x40000014 .w32 5)).hostq.head? ≠ some .reset :=
  ⟨_, inv_of_check (by decide), rfl, rfl, by decide⟩

/-- A fault that releases chip-select, and an exchange. -/
theorem witness_WireGrows :
    (∃ t, (acting ready (.store 0x40000000 .w32 0x13)).Inv ∧ step (acting ready (.store 0x40000000 .w32 0x13)) = .next t ∧
      (acting ready (.store 0x40000000 .w32 0x13)).hostq.head? ≠ some .reset) ∧
    (∃ s t : State, s.Inv ∧ step s = .next t ∧ s.hostq.head? ≠ some .reset ∧ s.cont = .stopGap) :=
  ⟨⟨_, inv_of_check (by decide), rfl, by decide⟩,
   ⟨{ runAt .stopGap with card := [0] }, _, inv_of_check (by decide), rfl, by decide, rfl⟩⟩

/-- A scripted answer and an unscripted one. -/
theorem witness_EngineExchange : ∀ l ∈ ([[7], []] : List (List Byte)), ∃ s : State, s.Inv ∧ s.cont ≠ .idle ∧
    engineTx (enginePrepare s) = some 0xFD ∧ s.card = l ∧
    ∃ rx rest, s.card = rx :: rest ∨ (s.card = [] ∧ rest = [] ∧
      rx = Config.cardAnswer s.draws (enginePrepare s).wire (enginePrepare s).bus.cs 0xFD) := by
  intro l hl
  simp only [List.mem_cons, List.not_mem_nil, or_false] at hl
  rcases hl with rfl | rfl
  · exact ⟨{ runAt .stopToken with card := [7] }, inv_of_check (by decide), by decide, by decide, rfl, 7, [], .inl rfl⟩
  · exact ⟨runAt .stopToken, inv_of_check (by decide), by decide, by decide, rfl, _, [], .inr ⟨rfl, rfl, rfl⟩⟩

/-- The Host's store and the Engine's, at the last byte of the buffer. -/
theorem witness_MemoryWrites :
    (∃ t, (acting ready (.store 0xFFFFFFFF .w8 7)).Inv ∧ step (acting ready (.store 0xFFFFFFFF .w8 7)) = .next t ∧
      t.mem.read 0xFFFFFFFF ≠ (acting ready (.store 0xFFFFFFFF .w8 7)).mem.read 0xFFFFFFFF) ∧
    (∃ s t : State, s.Inv ∧ step s = .next t ∧ s.cont = .readData 511 ∧ t.mem.read 0x11FF ≠ s.mem.read 0x11FF) :=
  ⟨⟨_, inv_of_check (by decide), rfl, by decide⟩,
   ⟨{ ownAt 0x0E (.readData 511) with card := [9] }, _, inv_of_check (by decide), rfl, rfl, by decide⟩⟩

/-- A step that writes no DATA, and each kind that does. -/
theorem witness_OperandsLatched :
    (∃ s t : State, s.status.fault = false ∧ t.status.fault = false ∧ s.cont ≠ .idle ∧ engineStep s = .next t ∧
      ¬writesData s t) ∧
    (∀ c ∈ [Cont.xferByte, .xferWord 3 0, .tokenWait 0, .readCrcLo 0], ∃ s t : State, s.cont = c ∧ s.status.fault = false ∧
      t.status.fault = false ∧ s.cont ≠ .idle ∧ engineStep s = .next t ∧ writesData s t) := by
  refine ⟨⟨{ runAt .stopGap with card := [0] }, _, rfl, rfl, by decide, rfl, ?_⟩, ?_⟩
  · rintro (h | ⟨_, h⟩ | ⟨_, h, _⟩ | ⟨_, h⟩) <;> cases h
  · intro c hc
    simp only [List.mem_cons, List.not_mem_nil, or_false] at hc
    rcases hc with rfl | rfl | rfl | rfl
    · exact ⟨{ runAt .xferByte with card := [0] }, _, rfl, rfl, rfl, by decide, rfl, .inl rfl⟩
    · exact ⟨{ runAt (.xferWord 3 0) with card := [0] }, _, rfl, rfl, rfl, by decide, rfl, .inr (.inl ⟨0, rfl⟩)⟩
    · exact ⟨{ ownAt 0x0E (.tokenWait 0) with card := [0] }, _, rfl, rfl, rfl, by decide, rfl,
        .inr (.inr (.inl ⟨0, rfl, rfl⟩))⟩
    · exact ⟨{ runAt (.readCrcLo 0) with card := [0] }, _, rfl, rfl, rfl, by decide, rfl,
        .inr (.inr (.inr ⟨0, rfl⟩))⟩

/-- A step that goes on, and the one that receives a data-response token. -/
theorem witness_ResultsAtFinish :
    (∃ s t : State, s.cont ≠ .idle ∧ engineStep s = .next t ∧ t.cont ≠ .idle) ∧
    (∃ s t : State, s.cont ≠ .idle ∧ engineStep s = .next t ∧ t.cont ≠ .idle ∧ t.dresp ≠ s.dresp) :=
  ⟨⟨{ runAt .stopGap with card := [0] }, _, by decide, rfl, by decide⟩,
   ⟨{ runAt (.writeResp 0) with card := [0xE5] }, _, by decide, rfl, by decide, by decide⟩⟩

/-- A finish with DONE alone and one with ERR. -/
theorem witness_EngineFinish : ∀ r ∈ ([0xFF, 0x00] : List Byte), ∃ s t : State, s.Inv ∧ s.cont ≠ .idle ∧ engineStep s = .next t ∧
    t.cont = .idle ∧ t.status.err = decide (r = 0x00) := by
  intro r hr
  simp only [List.mem_cons, List.not_mem_nil, or_false] at hr
  rcases hr with rfl | rfl
  · exact ⟨{ runAt (.busy .stopTran 1) with card := [0xFF] }, _, inv_of_check (by decide), by decide, rfl, rfl, rfl⟩
  · exact ⟨{ runAt (.busy .stopTran 1) with card := [0x00] }, _, inv_of_check (by decide), by decide, rfl, rfl, rfl⟩

theorem witness_NoModelFault : (ownAt 0x0F (.writeData 511)).Inv ∧ (trailAt .opCond .ok 0x01 none 1 0).Inv :=
  ⟨inv_of_check (by decide), inv_of_check (by decide +kernel)⟩

/-- NOP, and a READ_BLOCK at the highest buffer; the default parameters. -/
theorem witness_Terminates :
    (∃ t, ready.Inv ∧ ready.params.inDomain = true ∧ ready.accepting ∧ (opCode .nop).isSome = true ∧ launchOk .nop ready ∧
      exec .nop ready = .next t) ∧
    (∃ t, (blockState []).Inv ∧ (blockState []).params.inDomain = true ∧ (blockState []).accepting ∧
      (opCode .readBlock).isSome = true ∧ launchOk .readBlock (blockState []) ∧ exec .readBlock (blockState []) = .next t) ∧
    (State.reset.params = Params.default ∧ State.reset.cmdIdx.rtype ≠ .r1b) ∧
    (∃ s : State, s.params = Params.default ∧ s.cmdIdx.rtype = .r1b) :=
  ⟨⟨_, inv_of_check (by decide), by decide, ⟨rfl, rfl⟩, rfl,
      ⟨fun h => absurd h (by decide), fun h => absurd h (by decide), fun h => absurd h (by decide),
       fun h => absurd h (by decide)⟩, rfl⟩,
   ⟨_, inv_of_check (by decide), by decide, ⟨rfl, rfl⟩, rfl, (blockState_ok []).1, rfl⟩, ⟨rfl, by decide⟩,
   ⟨{ State.reset with cmdIdx := { idx := 0, rtype := .r1b } }, rfl, rfl⟩⟩

/-- The first and the last offset of the window. -/
theorem witness_RegisterReads : ∀ p ∈ ([(0x40000000, 0x00), (0x4000003C, 0x3C)] : List (Word × Nat)),
    ∃ s : State, s.params.inDomain = true ∧ s.hostq = [.load p.1 .w32] ∧ windowOffset s.params p.1 = some p.2 ∧ p.2 % 4 = 0 ∧
      s.busy = false := by
  intro p hp
  refine ⟨acting ready (.load p.1 .w32), by exact (by decide : small.inDomain = true), rfl, ?_⟩
  simp only [List.mem_cons, List.not_mem_nil, or_false] at hp
  rcases hp with rfl | rfl <;> decide

/-- Each register that a write may change, the first read-only one and the last offset, with no fault and after one. -/
theorem witness_RegisterWrites : ∀ off ∈ ([0x04, 0x08, 0x0C, 0x10, 0x14, 0x18, 0x1C, 0x3C] : List Nat), ∀ b ∈ [ready, faulted],
    ∃ s : State, s.params.inDomain = true ∧ s.hostq = [.store (0x40000000 + BitVec.ofNat 32 off) .w32 6] ∧
      windowOffset s.params (0x40000000 + BitVec.ofNat 32 off) = some off ∧ off % 4 = 0 ∧ off ≠ 0 ∧
      s.status.fault = b.status.fault := by
  intro off ho b hb
  refine ⟨acting b (.store (0x40000000 + BitVec.ofNat 32 off) .w32 6), ?_, rfl, ?_, ?_, ?_, rfl⟩ <;>
    simp only [List.mem_cons, List.not_mem_nil, or_false] at ho hb <;>
    rcases ho with rfl | rfl | rfl | rfl | rfl | rfl | rfl | rfl <;> rcases hb with rfl | rfl <;> decide

/-- An 8-bit store to OPCODE and a 32-bit load at an offset that is no multiple of 4. -/
theorem witness_RegAccessRule :
    (∃ s : State, s.params.inDomain = true ∧ windowOffset s.params 0x40000000 = some 0 ∧ Width.w8 ≠ .w32 ∧
      s.status.fault = false ∧ s.hostq = [.store 0x40000000 .w8 0]) ∧
    (∃ s : State, s.params.inDomain = true ∧ windowOffset s.params 0x4000003E = some 0x3E ∧ 0x3E % 4 ≠ 0 ∧
      s.status.fault = false ∧ s.hostq = [.load 0x4000003E .w32]) :=
  ⟨⟨acting ready (.store 0x40000000 .w8 0), by decide, by decide, by decide, rfl, rfl⟩,
   ⟨acting ready (.load 0x4000003E .w32), by decide, by decide, by decide, rfl, rfl⟩⟩

/-- The launches of an immediate and of a multi-step operation, a finish, a fault, and a step and a write after one. -/
theorem witness_InterruptOutput : (0x2#32).getLsbD 1 = true ∧ (0x0#32).getLsbD 0 = false ∧ ready.status.fault = false ∧
    faulted.status.fault = true ∧
    (ready.accepting ∧ ∀ i ∈ [Instr.nop, .writeBlock], (opCode i).isSome = true ∧ launchOk i ready) ∧
    (∃ s t : State, s.Inv ∧ s.cont ≠ .idle ∧ engineStep s = .next t ∧ t.cont = .idle) ∧
    (∃ s t : State, s.Inv ∧ s.status.fault = true ∧ step s = .next t ∧ s.hostq.head? ≠ some .reset) :=
  ⟨by decide, by decide, rfl, by decide,
   ⟨⟨rfl, rfl⟩, fun i hi => ⟨by
      simp only [List.mem_cons, List.not_mem_nil, or_false] at hi
      rcases hi with rfl | rfl <;> rfl, fun _ => rfl, fun _ => rfl, fun _ => rfl, fun _ => ⟨by decide, by decide⟩⟩⟩,
   ⟨{ runAt (.busy .stopTran 1) with card := [0xFF] }, _, inv_of_check (by decide), by decide, rfl, rfl⟩,
   acting faulted (.store 0x40000008 .w32 1), _, inv_of_check (by decide), rfl, rfl, by decide⟩

/-- The first byte of the buffer at 0x1000 by a 32-bit store that begins below it, and the last by a load, in READ_BLOCK
and in WRITE_BLOCK. -/
theorem witness_BufferRace :
    (∃ s : State, s.params.inDomain = true ∧ windowOffset s.params 0x0FFD = none ∧ s.status.xfer = true ∧
      3 < Width.w32.bytes ∧ s.lat.buf.toNat ≤ (0x0FFD#32).toNat + 3 ∧ (0x0FFD#32).toNat + 3 ≤ s.lat.buf.toNat + 511 ∧
      s.hostq = [.store 0x0FFD .w32 0]) ∧
    (∀ op ∈ ([0x0E, 0x0F] : List (BitVec 5)), ∃ s : State, s.params.inDomain = true ∧ windowOffset s.params 0x11FF = none ∧
      s.status.xfer = true ∧ 0 < Width.w8.bytes ∧ s.lat.buf.toNat ≤ (0x11FF#32).toNat + 0 ∧
      (0x11FF#32).toNat + 0 ≤ s.lat.buf.toNat + 511 ∧ s.hostq = [.load 0x11FF .w8] ∧ s.lat.op = op ∧
      memAdmits s.params (0x11FF#32).toNat Width.w8.bytes = true) := by
  refine ⟨⟨acting (ownAt 0x0F .writeToken) (.store 0x0FFD .w32 0), by decide, by decide, rfl, by decide, by decide, by decide,
    rfl⟩, fun op hop => ⟨acting (ownAt op (.tokenWait 0)) (.load 0x11FF .w8), ?_⟩⟩
  simp only [List.mem_cons, List.not_mem_nil, or_false] at hop
  rcases hop with rfl | rfl <;> decide

/-- The highest word of memory with the Engine idle, the words on either side of the buffer at 0x1000 while the Engine
owns it, and a load of that buffer's first byte during WRITE_BLOCK. -/
theorem witness_HostMemory :
    (∀ a ∈ [HostAction.store 0xFFFFFFFC .w32 0x12345678, .load 0xFFFFFFFC .w32],
      ∃ s : State, s.params.inDomain = true ∧ s.mem.wf = true ∧ windowOffset s.params 0xFFFFFFFC = none ∧
        s.status.xfer = false ∧ memAdmits s.params (0xFFFFFFFC#32).toNat Width.w32.bytes = true ∧ s.engStores = [] ∧
        s.hostq = [a]) ∧
    (∀ a ∈ ([0x0FFC, 0x1200] : List Word), ∀ h ∈ [HostAction.store a .w32 1, .load a .w32], ∃ s : State,
      s.params.inDomain = true ∧ s.mem.wf = true ∧ windowOffset s.params a = none ∧ s.status.xfer = true ∧
      s.outsideBuffer a.toNat Width.w32.bytes ∧ memAdmits s.params a.toNat Width.w32.bytes = true ∧ s.hostq = [h] ∧
      a.toNat + 3 ∈ s.engStores ∧ a.toNat + 0 ∉ s.engStores) ∧
    (∃ s : State, s.params.inDomain = true ∧ s.mem.wf = true ∧ windowOffset s.params 0x1000 = none ∧ s.status.xfer = true ∧
      s.lat.op ≠ 0x0E ∧ memAdmits s.params (0x1000#32).toNat Width.w8.bytes = true ∧ s.hostq = [.load 0x1000 .w8]) ∧
    (∃ s : State, s.params.inDomain = true ∧ s.hostq = [.dmb] ∧ 1 ∈ s.engStores ∧ 2 ∈ s.engStores ∧ s.seenStores = [2]) ∧
    (∃ s : State, s.params.inDomain = true ∧ s.hostq = [.load 0x40000004 .w32, .dmb] ∧
      windowOffset s.params 0x40000004 = some 0x04 ∧ s.status.xfer = false ∧ s.engStores ≠ []) := by
  refine ⟨?_, ?_, ⟨acting (ownAt 0x0F .writeToken) (.load 0x1000 .w8), by decide⟩,
    ⟨{ acting ready .dmb with engStores := [1, 2], seenStores := [2] }, by decide⟩,
    ⟨{ ready with hostq := [.load 0x40000004 .w32, .dmb], engStores := [1] }, by decide⟩⟩
  · intro a ha
    refine ⟨acting ready a, ?_⟩
    simp only [List.mem_cons, List.not_mem_nil, or_false] at ha
    rcases ha with rfl | rfl <;> decide
  · intro a ha h hh
    refine ⟨{ acting (ownAt 0x0E (.tokenWait 0)) h with engStores := [a.toNat + 3] }, ?_⟩
    simp only [List.mem_cons, List.not_mem_nil, or_false] at ha hh
    rcases ha with rfl | rfl <;> rcases hh with rfl | rfl <;>
      exact ⟨by decide, by decide, by decide, rfl, (by decide : ∀ j, j < 4 → _), by decide, rfl, by decide, by decide⟩

end Sys2Proof.Tests
end

section
/-! PROOFS. The command transaction from its program points, whoever runs it: its set-up, the frame's bytes, the polls
for R1 and the bytes after R1, each as one run of the Engine; from them the frame of every caller and INIT's answers. -/
namespace Sys2Proof.Proofs
open Sys2Proof.Machine Sys2Proof.Laws

/-! ### The set-up of a transaction and its return -/

/-- INIT's registers in the step of a frame's first byte: its phase and its attempt count, for INIT alone (log 7). -/
def initAtFrame : Caller → InitRegs → InitRegs
  | .cmdSend, i => i
  | .init cmd _, i =>
    { i with phase := cmd.phase, attempt := if cmd.countsAttempt then i.attempt + 1 else i.attempt }

/-- The set-up asserts chip-select, with its event, and leaves the frame's CRC in CRC7 (R176, R200, R209). -/
theorem txnStart_eq (c : Caller) (s : State) :
    txnStart c s = { s with
      bus := { s.bus with cs := true }
      crc7 := frameCrc (c.idx s.lat) (c.arg s.lat)
      init := initAtFrame c s.init
      wire := s.wire ++ s.assertEvents } := by
  have hw : (if s.bus.cs = true then s.wire else s.wire ++ [.csChange true]) = s.wire ++ s.assertEvents := by
    unfold State.assertEvents
    split <;> simp
  cases c <;> simp only [txnStart, setCs_eq, hw, initAtFrame]

/-- The commands whose transactions count no attempt are CMD59 and ACMD41 (R277, R278). -/
theorem countsAttempt_iff (cmd : InitCmd) : cmd.countsAttempt = true ↔ ¬(cmd = .crcOn ∨ cmd = .opCond) := by
  cases cmd <;> decide

/-- Only CMD8 and CMD58 among INIT's commands have bytes after R1 (R211 to R217). -/
theorem initCmd_rtype (cmd : InitCmd) : cmd.rtype = if cmd = .ifCond ∨ cmd = .readOcr then .r3r7 else .r1 := by
  cases cmd <;> rfl

/-- INIT holds R1 and, after a good response with bytes after R1, their word (R273, log 9). -/
theorem txnReturn_init {cmd : InitCmd} {p : Pending} {st : TxnStatus} {r1 : Byte} {word : Option Word} {s : State}
    (h : word = none ∨ st = .ok) :
    txnReturn (.init cmd p) st r1 word s = { s with
      cont := .initTrail cmd st r1 word { r0 := some r1, r1 := if word = none then p.r1 else word } } := by
  rcases h with rfl | rfl
  · rfl
  · cases word <;> rfl

/-! ### The frame -/

@[simp] theorem frameBytes_length (idx : BitVec 6) (arg : Word) : (frameBytes idx arg).length = 6 := by
  simp [frameBytes, frameHeader]

/-- The rest of a frame from byte k on is byte k and the rest after it. -/
theorem drop_frameBytes (idx : BitVec 6) (arg : Word) (k : Fin 6) :
    (frameBytes idx arg).drop k.val = frameByte idx arg k :: (frameBytes idx arg).drop (k.val + 1) := by
  have hk : k.val < (frameBytes idx arg).length := by simp
  rw [List.drop_eq_getElem_cons hk, frameByte, List.getD_eq_getElem _ _ hk]

/-- The frame's bytes from byte k up to the last, once the transaction is set up (R200, R202). -/
theorem run_frame (c : Caller) (rest : List Byte) : ∀ (rxs : List Byte) (k : Fin 6) (s : State),
    s.status.fault = false → s.bus.busEn = true → s.cont = .frame c k → k ≠ 0 → k.val + rxs.length = 6 →
    s.card = rxs ++ rest →
    engineRun rxs.length s = .next { s with
      cont := if c.idx s.lat = 12 then .stuff c else .r1Poll c 0
      wire := s.wire ++ exchanges s.bus.cs s.bus ((frameBytes (c.idx s.lat) (c.arg s.lat)).drop k.val) rxs
      card := rest } := by
  intro rxs
  induction rxs with
  | nil => intro k s _ _ _ _ hn; exact absurd hn (by simp; omega)
  | cons r rs ih =>
    intro k s hf hu hc hk hn hcard
    have h := engineStep_plain (tx := frameByte (c.idx s.lat) (c.arg s.lat) k) (rx := r) (rest := rs ++ rest)
      (by simp [hc]) (by simp [enginePrepare, hc, hk]) (by simp [engineTx, hc]) hf hu hcard
    rw [List.length_cons] at hn
    rw [List.length_cons, engineRun_succ h, drop_frameBytes]
    simp only [engineAbsorb, hc]
    by_cases hlast : k.val + 1 < 6
    · rw [dif_pos hlast, ih ⟨k.val + 1, hlast⟩ _ (by simpa using hf) (by simpa using hu) rfl
        (Fin.ne_of_val_ne (Nat.succ_ne_zero _)) (by simp only; omega) rfl]
      simp
    · obtain rfl : rs = [] := List.eq_nil_of_length_eq_zero (by omega)
      have hdrop : (frameBytes (c.idx s.lat) (c.arg s.lat)).drop (k.val + 1) = [] :=
        List.drop_eq_nil_of_le (by simp; omega)
      rw [dif_neg hlast, hdrop]
      split <;> simp [engineRun]

/-- The first byte of a frame, with the set-up of its transaction in the same step (R200, log 7). -/
theorem engineStep_frame_first {c : Caller} {rx : Byte} {rest : List Byte} {s : State} (hf : s.status.fault = false)
    (hu : s.bus.busEn = true) (hc : s.cont = .frame c 0) (hcard : s.card = rx :: rest) :
    engineStep s = .next { s with
      bus := { s.bus with cs := true }
      crc7 := frameCrc (c.idx s.lat) (c.arg s.lat)
      cont := .frame c 1
      init := initAtFrame c s.init
      wire := s.wire ++ s.assertEvents ++ exchanges true s.bus [frameByte (c.idx s.lat) (c.arg s.lat) 0] [rx]
      card := rest } := by
  have hp : enginePrepare s = txnStart c s := by simp [enginePrepare, hc]
  rw [txnStart_eq] at hp
  rw [engineStep_scripted (tx := frameByte (c.idx s.lat) (c.arg s.lat) 0) (by simp [hc]) (by simp [hp, engineTx, hc])
    (by simpa [hp] using hf) (by simpa [hp] using hu) hcard, hp]
  simp [engineAbsorb, hc]

/-- A transaction from its start through the six bytes of its frame (R200, R201). -/
theorem run_frame_from_start {c : Caller} {rxs rest : List Byte} {s : State} (hf : s.status.fault = false)
    (hu : s.bus.busEn = true) (hc : s.cont = .frame c 0) (hn : rxs.length = 6) (hcard : s.card = rxs ++ rest) :
    engineRun 6 s = .next { s with
      bus := { s.bus with cs := true }
      crc7 := frameCrc (c.idx s.lat) (c.arg s.lat)
      cont := if c.idx s.lat = 12 then .stuff c else .r1Poll c 0
      init := initAtFrame c s.init
      wire := s.wire ++ s.assertEvents ++ exchanges true s.bus (frameBytes (c.idx s.lat) (c.arg s.lat)) rxs
      card := rest } := by
  obtain ⟨r, rs, rfl⟩ := List.exists_cons_of_length_eq_add_one hn
  have hcount : engineRun 5 = engineRun rs.length := by rw [Nat.succ.inj hn]
  have hbytes : frameBytes (c.idx s.lat) (c.arg s.lat) =
      frameByte (c.idx s.lat) (c.arg s.lat) 0 :: (frameBytes (c.idx s.lat) (c.arg s.lat)).drop 1 :=
    drop_frameBytes (c.idx s.lat) (c.arg s.lat) 0
  rw [engineRun_succ (engineStep_frame_first hf hu hc hcard), hcount,
    run_frame c rest rs 1 _ (by exact hf) (by exact hu) rfl (by decide) (by simp at hn ⊢; omega) rfl, hbytes]
  simp [exchanges]

/-! ### R1 and the bytes after it -/

/-- The events of fill bytes sent over two lists of answers are those of the first and then those of the second. -/
theorem exchanges_fills_append (cs : Bool) (b : BusCtl) {xs ys : List Byte} {m n : Nat} (h : xs.length = m) :
    exchanges cs b (fills (m + n)) (xs ++ ys) = exchanges cs b (fills m) xs ++ exchanges cs b (fills n) ys := by
  rw [fills_add, exchanges_append _ _ _ _ _ _ (by simp [h])]

/-- The last poll answers R1 (R203, R204). -/
theorem engineStep_r1Poll_found {c : Caller} {k : Nat} {r1 : Byte} {rest : List Byte} {s : State}
    (hf : s.status.fault = false) (hu : s.bus.busEn = true) (hc : s.cont = .r1Poll c k) (hr : r1.getLsbD 7 = false)
    (hcard : s.card = r1 :: rest) :
    engineStep s = .next (txnAfterR1 c r1 { s with
      card := rest, wire := s.wire ++ exchanges s.bus.cs s.bus (fills 1) [r1] }) := by
  have hr1 : isR1 r1 = true := by unfold isR1; rw [hr]; rfl
  rw [engineStep_plain (tx := 0xFF) (by simp [hc]) (by simp [enginePrepare, hc]) (by simp [engineTx, hc, fill]) hf hu
    hcard]
  simp [engineAbsorb, hc, hr1, fills]

/-- The last poll that NCR_LIMIT allows answers no R1 (R203, R204). -/
theorem engineStep_r1Poll_timeout {c : Caller} {k : Nat} {r1 : Byte} {rest : List Byte} {s : State}
    (hf : s.status.fault = false) (hu : s.bus.busEn = true) (hc : s.cont = .r1Poll c k) (hr : r1.getLsbD 7 = true)
    (hk : s.params.ncrLimit ≤ k + 1) (hcard : s.card = r1 :: rest) :
    engineStep s = .next (txnReturn c .timeout r1 none { s with
      card := rest, wire := s.wire ++ exchanges s.bus.cs s.bus (fills 1) [r1] }) := by
  have hr1 : isR1 r1 = false := by unfold isR1; rw [hr]; rfl
  rw [engineStep_plain (tx := 0xFF) (by simp [hc]) (by simp [enginePrepare, hc]) (by simp [engineTx, hc, fill]) hf hu
    hcard]
  simp [engineAbsorb, hc, hr1, hk, fills]

/-- The polls and then R1, which ends them (R203). -/
theorem run_r1Poll_found {c : Caller} {polls rest : List Byte} {r1 : Byte} {s : State} (hf : s.status.fault = false)
    (hu : s.bus.busEn = true) (hc : s.cont = .r1Poll c 0) (hp : ∀ b ∈ polls, b.getLsbD 7 = true)
    (hn : polls.length < s.params.ncrLimit) (hr : r1.getLsbD 7 = false) (hcard : s.card = polls ++ r1 :: rest) :
    engineRun (polls.length + 1) s = .next (txnAfterR1 c r1 { s with
      cont := .r1Poll c polls.length
      card := rest
      wire := s.wire ++ exchanges s.bus.cs s.bus (fills (polls.length + 1)) (polls ++ [r1]) }) := by
  have hpolls := run_r1Poll c polls (r1 :: rest) 0 s hf hu hc hp (by omega) hcard
  rw [engineRun_add hpolls, engineRun_one, engineStep_r1Poll_found (by simpa using hf) (by simpa using hu) rfl hr rfl,
    exchanges_fills_append _ _ rfl]
  simp only [Nat.zero_add, List.append_assoc]

/-- As many polls as NCR_LIMIT allows, and no R1 among them (R203, R204). -/
theorem run_r1Poll_timeout {c : Caller} {polls rest : List Byte} {r1 : Byte} {s : State} (hf : s.status.fault = false)
    (hu : s.bus.busEn = true) (hc : s.cont = .r1Poll c 0) (hp : ∀ b ∈ polls, b.getLsbD 7 = true)
    (hn : polls.length + 1 = s.params.ncrLimit) (hr : r1.getLsbD 7 = true) (hcard : s.card = polls ++ r1 :: rest) :
    engineRun (polls.length + 1) s = .next (txnReturn c .timeout r1 none { s with
      cont := .r1Poll c polls.length
      card := rest
      wire := s.wire ++ exchanges s.bus.cs s.bus (fills (polls.length + 1)) (polls ++ [r1]) }) := by
  have hpolls := run_r1Poll c polls (r1 :: rest) 0 s hf hu hc hp (by omega) hcard
  rw [engineRun_add hpolls, engineRun_one, engineStep_r1Poll_timeout (by simpa using hf) (by simpa using hu) rfl hr
    (by simp only; omega) rfl, exchanges_fills_append _ _ rfl]
  simp only [Nat.zero_add, List.append_assoc]

/-- An R1 with one of bits 6..1 set ends the transaction with RERROR (R205). -/
theorem txnAfterR1_error {c : Caller} {r1 : Byte} {s : State} (h : r1 &&& 0x7E ≠ 0) :
    txnAfterR1 c r1 s = txnReturn c .rerror r1 none s :=
  if_pos (by simpa [r1HasError] using h)

/-- A good R1 is what the response type R1 asks for (R206). -/
theorem txnAfterR1_good {c : Caller} {r1 : Byte} {s : State} (h : r1 &&& 0x7E = 0) (ht : c.rtype s.lat = .r1) :
    txnAfterR1 c r1 s = txnReturn c .ok r1 none s := by
  have hok : r1HasError r1 = false := by simpa [r1HasError] using h
  simp [txnAfterR1, hok, ht]

/-- A good R1 of the response types R3 and R7 is followed by more bytes (R206). -/
theorem txnAfterR1_trailing {c : Caller} {r1 : Byte} {s : State} (h : r1 &&& 0x7E = 0) (ht : c.rtype s.lat = .r3r7) :
    txnAfterR1 c r1 s = { s with cont := .trailing c r1 0 0 } := by
  have hok : r1HasError r1 = false := by simpa [r1HasError] using h
  simp [txnAfterR1, hok, ht]

/-- A byte after R1 that is not the last of the four (R206). -/
theorem engineStep_trailing_more {c : Caller} {r1 rx : Byte} {k : Fin 4} {got : Word} {rest : List Byte} {s : State}
    (hf : s.status.fault = false) (hu : s.bus.busEn = true) (hc : s.cont = .trailing c r1 k got)
    (ht : c.rtype s.lat = .r3r7) (hk : k.val + 1 < 4) (hcard : s.card = rx :: rest) :
    engineStep s = .next { s with
      cont := .trailing c r1 ⟨k.val + 1, hk⟩ (shiftInByte got rx)
      card := rest, wire := s.wire ++ exchanges s.bus.cs s.bus (fills 1) [rx] } := by
  have hlast : lastTrailing .r3r7 k = false := decide_eq_false (by omega)
  rw [engineStep_plain (tx := 0xFF) (by simp [hc]) (by simp [enginePrepare, hc]) (by simp [engineTx, hc, fill]) hf hu
    hcard]
  simp [engineAbsorb, hc, ht, hlast, hk, fills]

/-- The last of the four bytes after R1 (R206). -/
theorem engineStep_trailing_last {c : Caller} {r1 rx : Byte} {got : Word} {rest : List Byte} {s : State}
    (hf : s.status.fault = false) (hu : s.bus.busEn = true) (hc : s.cont = .trailing c r1 3 got)
    (ht : c.rtype s.lat = .r3r7) (hcard : s.card = rx :: rest) :
    engineStep s = .next (txnReturn c .ok r1 (some (shiftInByte got rx)) { s with
      card := rest, wire := s.wire ++ exchanges s.bus.cs s.bus (fills 1) [rx] }) := by
  rw [engineStep_plain (tx := 0xFF) (by simp [hc]) (by simp [enginePrepare, hc]) (by simp [engineTx, hc, fill]) hf hu
    hcard]
  simp [engineAbsorb, hc, ht, lastTrailing, fills]

/-- A byte shifted in stands below the word's lower three bytes. -/
theorem shiftInByte_eq (got : Word) (rx : Byte) : shiftInByte got rx = got.extractLsb' 0 24 ++ rx := by
  apply BitVec.eq_of_getLsbD_eq
  intro j hj
  simp only [shiftInByte, BitVec.getLsbD_or, BitVec.getLsbD_shiftLeft, BitVec.getLsbD_setWidth, BitVec.getLsbD_append,
    BitVec.getLsbD_extractLsb']
  by_cases h : j < 8
  · simp [h, hj]
  · have hrx : rx.getLsbD j = false := BitVec.getLsbD_of_ge rx j (by omega)
    have hlow : j - 8 < 24 := by omega
    simp [h, hj, hrx, hlow]

/-- A byte put below a word. -/
theorem toNat_append_byte {w : Nat} (x : BitVec w) (b : Byte) : (x ++ b).toNat = x.toNat * 256 + b.toNat := by
  rw [BitVec.toNat_append, ← Nat.shiftLeft_add_eq_or_of_lt b.isLt, Nat.shiftLeft_eq]

/-- Four bytes shifted in are the word, most significant byte first (R206). -/
theorem shiftInByte_four (a b c d : Byte) :
    shiftInByte (shiftInByte (shiftInByte (shiftInByte 0 a) b) c) d = a ++ b ++ c ++ d := by
  apply BitVec.eq_of_toNat_eq
  simp only [shiftInByte_eq, toNat_append_byte, BitVec.extractLsb'_toNat, Nat.shiftRight_zero]
  omega

/-- The four bytes after a good R1 of the response types R3 and R7 (R206). -/
theorem run_trailing {c : Caller} {r1 b0 b1 b2 b3 : Byte} {rest : List Byte} {s : State} (hf : s.status.fault = false)
    (hu : s.bus.busEn = true) (hc : s.cont = .trailing c r1 0 0) (ht : c.rtype s.lat = .r3r7)
    (hcard : s.card = b0 :: b1 :: b2 :: b3 :: rest) :
    engineRun 4 s = .next (txnReturn c .ok r1 (some (b0 ++ b1 ++ b2 ++ b3)) { s with
      cont := .trailing c r1 3 (shiftInByte (shiftInByte (shiftInByte 0 b0) b1) b2)
      card := rest, wire := s.wire ++ exchanges s.bus.cs s.bus (fills 4) [b0, b1, b2, b3] }) := by
  rw [engineRun_succ (engineStep_trailing_more hf hu hc ht (by decide) hcard),
    engineRun_succ (engineStep_trailing_more (k := 1) (by exact hf) (by exact hu) rfl (by exact ht) (by decide) rfl),
    engineRun_succ (engineStep_trailing_more (k := 2) (by exact hf) (by exact hu) rfl (by exact ht) (by decide) rfl),
    engineRun_one, engineStep_trailing_last (by exact hf) (by exact hu) rfl (by exact ht) rfl, shiftInByte_four]
  simp [fills]

/-! ### INIT's transactions -/

/-- Settles O26: the frame is run from its set-up, and INIT's answers are run from the polls through R1 and, for CMD8
and CMD58, the four bytes after it. -/
theorem frameSent : Obligations.FrameSent := by
  refine ⟨fun s c rxs rest hf hu hc hn hcard => ?_, ?_⟩
  · rw [run_frame_from_start hf hu hc hn hcard]
    cases c with
    | cmdSend => rfl
    | init cmd p => simp only [initAtFrame, countsAttempt_iff, ite_not]
  · intro s cmd p polls tail rest r1 st word hf hu hc hp hn hcase hcard
    rw [List.append_assoc, List.append_assoc, List.singleton_append] at hcard
    rcases hcase with ⟨rfl, hr, hlim, rfl, rfl⟩ | ⟨rfl, hr, herr, rfl, rfl⟩ |
      ⟨rfl, hr, hgood, h8, h58, rfl, rfl⟩ | ⟨rfl, hr, hgood, hcmd, a, b, c, d, rfl, rfl⟩
    · have hrun := run_r1Poll_timeout hf hu hc hp hlim hr hcard
      rw [txnReturn_init (.inl rfl)] at hrun
      simpa using hrun
    · have hrun := run_r1Poll_found hf hu hc hp hn hr hcard
      rw [txnAfterR1_error herr, txnReturn_init (.inl rfl)] at hrun
      simpa using hrun
    · have ht : (Caller.init cmd p).rtype s.lat = .r1 := by simp [Caller.rtype, initCmd_rtype, h8, h58]
      have hrun := run_r1Poll_found hf hu hc hp hn hr hcard
      rw [txnAfterR1_good hgood (by exact ht), txnReturn_init (.inl rfl)] at hrun
      simpa using hrun
    · have ht : (Caller.init cmd p).rtype s.lat = .r3r7 := by simp [Caller.rtype, initCmd_rtype, hcmd]
      have hrun := run_r1Poll_found hf hu hc hp hn hr hcard
      rw [txnAfterR1_trailing hgood (by exact ht)] at hrun
      have hlen : (polls ++ [r1]).length = polls.length + 1 := by simp
      rw [engineRun_add hrun, exchanges_fills_append _ _ hlen, ← List.append_assoc]
      have htail := run_trailing (s := { s with
          cont := .trailing (.init cmd p) r1 0 0, card := a :: b :: c :: d :: rest
          wire := s.wire ++ exchanges s.bus.cs s.bus (fills (polls.length + 1)) (polls ++ [r1]) }) hf hu rfl ht rfl
      rw [txnReturn_init (.inr rfl)] at htail
      exact htail
end Sys2Proof.Proofs
end

section
/-! PROOFS. The state at reset (R59), and the interrupt output (R54, R325) through every step that moves it: a launch, a
finish, a fault, a write to STATUS or CONFIG; and the Host's steps after a fault, which change nothing of the block. -/
namespace Sys2Proof.Proofs
open Sys2Proof.Machine Sys2Proof.Laws

/-! ### Reset -/

/-- Every register of the window reads 0 at reset, the CRC registers among them, as no operation runs (R59). -/
theorem regValue_reset (off : Nat) : regValue off State.reset = 0 := by
  unfold regValue
  split <;> rfl

/-- Settles O1: the window by `regValue_reset`, each field from the definition of the reset state. -/
theorem resetValues : Obligations.ResetValues :=
  ⟨regValue_reset, rfl, rfl, rfl, rfl, rfl, rfl, rfl, rfl, rfl, rfl, rfl, rfl, rfl, rfl, rfl, rfl, rfl, rfl, rfl⟩

/-! ### The interrupt output as a level -/

/-- The interrupt output is IE and (DONE or FAULT) (R54, R325). -/
theorem irq_iff (s : State) : s.irq = true ↔ s.config.ie = true ∧ (s.status.done = true ∨ s.status.fault = true) := by
  simp [State.irq]

/-- With DONE recorded the interrupt output is IE. -/
theorem irq_of_done {s : State} (h : s.status.done = true) : s.irq = s.config.ie := by
  simp [State.irq, h]

/-- With a fault recorded the interrupt output is IE. -/
theorem irq_of_fault {s : State} (h : s.status.fault = true) : s.irq = s.config.ie := by
  simp [State.irq, h]

/-- With neither DONE nor a fault recorded the interrupt output is low. -/
theorem irq_of_not_done {s : State} (hd : s.status.done = false) (hf : s.status.fault = false) : s.irq = false := by
  simp [State.irq, hd, hf]

/-! ### Register writes and the fault -/

/-- After a fault a register write is ignored (R57). -/
theorem regWrite_faulted {s : State} (off : Nat) (v : Word) (h : s.status.fault = true) : regWrite off v s = s :=
  if_pos h

/-- A write to STATUS writes its one-to-clear bits (R35). -/
theorem regWrite_status {s : State} (v : Word) (h : s.status.fault = false) :
    regWrite 0x04 v s = { s with status := clearStatus v s.status } := by
  simp [regWrite, h]

/-- A write to CONFIG sets it (R36). -/
theorem regWrite_config {s : State} (v : Word) (h : s.status.fault = false) :
    regWrite 0x08 v s = { s with config := ConfigReg.ofWord v } := by
  simp [regWrite, h]

/-- A raised fault is recorded, whether it is the first or not (R321). -/
@[simp] theorem raiseFault_fault (code : FaultCode) (s : State) : (raiseFault code s).status.fault = true := by
  cases h : s.status.fault
  · rw [raiseFault_eq code s h]
  · rw [raiseFault_sticky code s h, h]

/-! ### The launch -/

/-- The launch's buffer check is the one of R88. -/
theorem bufferOk_iff (s : State) : bufferOk s = true ↔ s.bufferAdmitted := by
  simp only [bufferOk, State.bufferAdmitted, sectorBytes, Bool.and_eq_true, decide_eq_true_eq]

/-- An operation whose row of the launch table holds misses no requirement (R313). -/
theorem missing_launchRow {i : Instr} {s : State} (h : launchOk i s) : missing (launchRow i) s = none := by
  obtain ⟨hbus, hready, hcs, hbuffer⟩ := h
  exact missing_none _ s hbus hready hcs fun hn => (bufferOk_iff s).mpr (hbuffer hn)

/-- An immediate operation has finished within its launch and leaves the interrupt output equal to IE (R317). -/
theorem launchImmediate_irq {op : BitVec 5} {n : Needs} {body : State → State} {s : State} (ha : s.accepting)
    (hm : missing n s = none) (hbody : ∀ q, (body q).config = q.config) :
    ∃ t, launchImmediate op n body s = .next t ∧ t.irq = s.config.ie :=
  ⟨_, launchImmediate_go ha.1 ha.2 hm, (irq_of_done rfl).trans (congrArg ConfigReg.ie (hbody (latchOperands op s)))⟩

/-- The launch of a multi-step operation lowers the interrupt output (R314). -/
theorem launchSteps_irq {op : BitVec 5} {n : Needs} {start : State → State} {s : State} (ha : s.accepting)
    (hm : missing n s = none)
    (hstart : ∀ q, (start q).status.done = q.status.done ∧ (start q).status.fault = q.status.fault) :
    ∃ t, launchSteps op n start s = .next t ∧ t.irq = false :=
  ⟨_, launchSteps_go ha.1 ha.2 hm, irq_of_not_done (hstart _).1 ((hstart _).2.trans ha.1)⟩

/-- The launch of every operation that passes its checks lowers the interrupt output; an immediate one has also
finished. -/
theorem exec_launch_irq {i : Instr} {s : State} (ha : s.accepting) (hop : (opCode i).isSome = true)
    (hok : launchOk i s) : ∃ t, exec i s = .next t ∧ t.irq = if isMultiStep i then false else s.config.ie := by
  have hm := missing_launchRow hok
  cases i <;> unfold exec
  case nop | busEnable | busDisable | csAssert | csRelease | crc7Clear | crc7Feed | crc16Clear | crc16Feed =>
    exact launchImmediate_irq ha hm (by simp)
  case setSpeed =>
    refine launchImmediate_irq ha hm fun q => ?_
    split <;> rfl
  case cmdSend =>
    unfold execCmdSend launchCmdSend
    exact launchSteps_irq ha hm (by simp)
  case idleClocks | xferByte | xferWord | readBlock | writeBlock | stopTran | busyWait | init =>
    exact launchSteps_irq ha hm (by intro q; exact ⟨rfl, rfl⟩)
  all_goals exact nomatch hop

/-! ### How an Engine step ends -/

/-- What a step of a running operation leads to: a further step of it, or one of the two finishes (R318, R319). -/
inductive GoesOnOrFinishes : State → Prop
  | goesOn {t : State} (h : t.cont ≠ .idle) : GoesOnOrFinishes t
  | ok (q : State) : GoesOnOrFinishes (finishOk q)
  | err (code : ErrCode) (q : State) : GoesOnOrFinishes (finishErr code q)

/-- A finish records DONE (R318, R319). -/
theorem GoesOnOrFinishes.done {t : State} (h : GoesOnOrFinishes t) (hc : t.cont = .idle) : t.status.done = true := by
  cases h with
  | goesOn h => exact absurd hc h
  | ok q => rfl
  | err code q => rfl

/-- The end of CMD_SEND is a finish; INIT goes on with its trailing byte (R208, R273). -/
theorem txnReturn_goesOnOrFinishes (c : Caller) (st : TxnStatus) (r1 : Byte) (tail : Option Word) (s : State) :
    GoesOnOrFinishes (txnReturn c st r1 tail s) := by
  cases c with
  | cmdSend =>
    cases st with
    | ok => exact .ok _
    | timeout | rerror | busyTo => exact .err _ _
  | init cmd pend => exact .goesOn (by simp [txnReturn])

/-- After R1 the transaction returns or goes on (R205 to R207). -/
theorem txnAfterR1_goesOnOrFinishes (c : Caller) (r1 : Byte) (s : State) :
    GoesOnOrFinishes (txnAfterR1 c r1 s) := by
  unfold txnAfterR1
  split
  · exact txnReturn_goesOnOrFinishes ..
  · split
    · exact txnReturn_goesOnOrFinishes ..
    all_goals exact .goesOn (by simp)

/-- The end of a busy poll is the return of its transaction or a finish (R250 to R252). -/
theorem busyReturn_goesOnOrFinishes (u : BusyUser) (ready : Bool) (s : State) :
    GoesOnOrFinishes (busyReturn u ready s) := by
  cases u with
  | txn c r1 => exact txnReturn_goesOnOrFinishes ..
  | writeBlock | stopTran | busyWait =>
    cases ready with
    | true => exact .ok _
    | false => exact .err _ _

/-- The end of an attempt of INIT is a failure or a further transaction (R275 to R281). -/
theorem initRetry_goesOnOrFinishes (limit : Nat) (code : ErrCode) (cmd : InitCmd) (pend : Pending) (s : State) :
    GoesOnOrFinishes (initRetry limit code cmd pend s) := by
  unfold initRetry
  split
  · exact .err _ _
  · exact .goesOn (by simp [initAgain])

/-- A phase of INIT goes on, fails, or, after CMD16, finishes (R275 to R283). -/
theorem initConclude_goesOnOrFinishes (cmd : InitCmd) (st : TxnStatus) (r1 : Byte) (tail : Option Word)
    (pend : Pending) (s : State) : GoesOnOrFinishes (initConclude cmd st r1 tail pend s) := by
  have enter : ∀ cmd q, GoesOnOrFinishes (initEnter cmd pend q) := fun _ _ => .goesOn (by simp [initEnter])
  have retry := fun limit code cmd => initRetry_goesOnOrFinishes limit code cmd pend
  cases cmd <;> simp only [initConclude]
  case goIdle =>
    generalize (if st = .timeout then s.init.absent + 1 else 0) = absent
    split
    · exact enter ..
    · split
      · exact .err _ _
      · exact retry ..
  case crcOn =>
    split
    · exact enter ..
    · exact .err _ _
  case ifCond | readOcr =>
    split
    · exact enter ..
    · exact retry ..
  case appCmd | opCond =>
    split
    · exact .goesOn (by simp [initAgain])
    · exact retry ..
  case blockLen =>
    split
    · exact .ok _
    · exact retry ..

/-- After a data byte the transfer goes on, with the next byte or past the last (R232, R240). -/
theorem afterDataByte_goesOn {i : Fin 512} {more : Fin 512 → Cont} {next : Cont} {s : State}
    (hmore : ∀ j, more j ≠ .idle) (hnext : next ≠ .idle) : GoesOnOrFinishes (afterDataByte i more next s) := by
  unfold afterDataByte
  split
  · exact .goesOn (hmore _)
  · exact .goesOn hnext

/-- After its exchange a running operation goes on or finishes. -/
theorem engineAbsorb_goesOnOrFinishes (tx rx : Byte) {s : State} (hb : s.cont ≠ .idle) :
    GoesOnOrFinishes (engineAbsorb tx rx s) := by
  cases hc : s.cont <;> simp only [engineAbsorb, hc]
  case idle => exact absurd hc hb
  case stuff | readCrcHi | writeToken | writeCrcHi | writeCrcLo | stopToken | stopGap => exact .goesOn (by simp)
  case speedUp => exact .goesOn hb
  case xferByte => exact .ok _
  case initTrail => exact initConclude_goesOnOrFinishes ..
  case idleClocks =>
    split
    · exact .ok _
    · exact .goesOn (by simp)
  case xferWord =>
    split
    · exact .goesOn (by simp)
    · exact .ok _
  case frame =>
    split
    · exact .goesOn (by simp)
    · split <;> exact .goesOn (by simp)
  case r1Poll =>
    split
    · exact txnAfterR1_goesOnOrFinishes ..
    · split
      · exact txnReturn_goesOnOrFinishes ..
      · exact .goesOn (by simp)
  case trailing =>
    split
    · exact txnReturn_goesOnOrFinishes ..
    · split
      · exact .goesOn (by simp)
      · exact txnReturn_goesOnOrFinishes ..
  case tokenWait =>
    split
    · exact .goesOn (by simp)
    · split
      · exact .err _ _
      · split
        · exact .err _ _
        · exact .goesOn (by simp)
  case readData | writeData => exact afterDataByte_goesOn (by simp) (by simp)
  case readCrcLo =>
    split
    · exact .ok _
    · exact .err _ _
  case writeResp =>
    split
    · split
      · exact .goesOn (by simp)
      · exact .err _ _
    · split
      · exact .err _ _
      · exact .goesOn (by simp)
  case busy =>
    split
    · exact busyReturn_goesOnOrFinishes ..
    · split
      · exact busyReturn_goesOnOrFinishes ..
      · exact .goesOn (by simp)
  case initClocks =>
    split <;> exact .goesOn (by simp [initEnter])

/-- A running operation's step goes on or finishes; the steps with no exchange do so too (R11). -/
theorem engineStep_goesOnOrFinishes {s t : State} (hb : s.cont ≠ .idle) (h : engineStep s = .next t) :
    GoesOnOrFinishes t := by
  obtain ⟨hc, -⟩ | ⟨-, htx, rfl⟩ | ⟨-, tx, -, -, -, rfl⟩ := engineStep_cases h
  · exact absurd hc hb
  · obtain hc | hc | ⟨pend, hc⟩ := engineTx_none htx
    · exact absurd hc hb
    · simp only [engineQuiet, enginePrepare_cont, hc]
      exact .ok _
    · simp only [engineQuiet, enginePrepare_cont, hc]
      exact .goesOn (by simp [initEnter])
  · exact engineAbsorb_goesOnOrFinishes _ _ (by simpa using hb)

/-! ### Steps after a fault -/

/-- The state after a step that changes nothing of the block: system memory, its ordering, and what the Host is to do
and has read are all that may differ. -/
def SameBlock (s t : State) : Prop :=
  ∃ mem hostq rdata draws hostStores engStores seenStores, t = { s with
    mem := mem, hostq := hostq, rdata := rdata, draws := draws
    hostStores := hostStores, engStores := engStores, seenStores := seenStores }

/-- Nothing of the block differs where nothing does. -/
theorem SameBlock.refl (s : State) : SameBlock s s := ⟨_, _, _, _, _, _, _, rfl⟩

/-- The interrupt output is the block's. -/
theorem SameBlock.irq {s t : State} (h : SameBlock s t) : t.irq = s.irq := by
  obtain ⟨_, _, _, _, _, _, _, rfl⟩ := h
  rfl

/-- Taking the Host's next action off the queue changes nothing of the block. -/
theorem SameBlock.of_dequeued {s t : State} {rest : List HostAction} (h : SameBlock { s with hostq := rest } t) :
    SameBlock s t := by
  obtain ⟨_, _, _, _, _, _, _, rfl⟩ := h
  exact ⟨_, _, _, _, _, _, _, rfl⟩

/-- A Host store to system memory changes nothing of the block. -/
theorem memStore_sameBlock {a : Nat} {width : Width} {v : Word} {s t : State} (h : memStore a width v s = .next t) :
    SameBlock s t := by
  unfold memStore at h
  split at h
  · cases h
  · split at h
    · cases h
      exact ⟨_, _, _, _, _, _, _, storeBytes_eq _ _ _⟩
    · cases h

/-- A Host load from system memory changes nothing of the block. -/
theorem memLoad_sameBlock {a : Nat} {width : Width} {s t : State} (h : memLoad a width s = .next t) :
    SameBlock s t := by
  obtain ⟨d, hd⟩ := loadBytes_draws width.bytes a s
  unfold memLoad at h
  split at h
  · cases h
  · split at h
    · cases h
      rw [hd]
      exact ⟨_, _, _, _, _, _, _, rfl⟩
    · cases h

/-- A register read changes nothing of the block (R99). -/
theorem loadReg_sameBlock (off : Nat) (s : State) : SameBlock s (loadReg off s) := ⟨_, _, _, _, _, _, _, rfl⟩

/-- After a fault a Host store changes nothing of the block: a register write is ignored, and a bad access raises a
second fault (R57, R321). -/
theorem hostStore_faulted {addr : Word} {width : Width} {v : Word} {s t : State} (hf : s.status.fault = true)
    (h : hostStore addr width v s = .next t) : SameBlock s t := by
  unfold hostStore at h
  split at h
  · rw [regWrite_faulted _ _ hf, raiseFault_sticky _ _ hf, ite_self] at h
    cases h
    exact .refl s
  · exact memStore_sameBlock h

/-- After a fault a Host load changes nothing of the block (R57, R321). -/
theorem hostLoad_faulted {addr : Word} {width : Width} {s t : State} (hf : s.status.fault = true)
    (h : hostLoad addr width s = .next t) : SameBlock s t := by
  unfold hostLoad at h
  split at h
  · rw [raiseFault_sticky _ _ hf] at h
    cases h
    split
    · exact loadReg_sameBlock _ s
    · exact ⟨_, _, _, _, _, _, _, rfl⟩
  · exact memLoad_sameBlock h

/-- A round of a Host wait reads STATUS and changes nothing of the block (R105, R106). -/
theorem hostWait_sameBlock (again : HostAction) (ended : Word → Bool) (s : State) :
    SameBlock s (hostWait again ended s) := by
  unfold hostWait
  dsimp only
  split <;> exact ⟨_, _, _, _, _, _, _, rfl⟩

/-- The Host's check of ERR reads STATUS and changes nothing of the block (R237, R247). -/
theorem hostStopOnErr_sameBlock (s : State) : SameBlock s (hostStopOnErr s) := by
  unfold hostStopOnErr
  dsimp only
  split <;> exact ⟨_, _, _, _, _, _, _, rfl⟩

/-- After a fault the Host's command does nothing: both register writes and the launch are ignored (R57, R106). -/
theorem sendCommand_faulted {idx : BitVec 6} {rtype : RespType} {arg : Word} {s : State} (h : s.status.fault = true) :
    sendCommand idx rtype arg s = .next s := by
  unfold sendCommand
  rw [regWrite_faulted _ _ h, regWrite_faulted _ _ h]
  exact if_pos h

/-- With no operation running a token on the bus does nothing (R120). -/
theorem tokenOnBus_idle {b : Byte} {s : State} (h : s.cont = .idle) : tokenOnBus b s = .next s :=
  if_neg (by simp [State.busy, h])

/-- After a fault no instruction does anything: an operation's first check is the fault, a command's register writes are
ignored too, and a token finds no operation running (R57, R316). -/
theorem exec_faulted (i : Instr) {s : State} (hf : s.status.fault = true) (hc : s.cont = .idle) :
    exec i s = .next s := by
  cases i
  case startToken | startTokenMulti | stopToken | dataResponse => exact tokenOnBus_idle hc
  case sdFrame | cmd0 | cmd8 | cmd59 | cmd55 | acmd41 | cmd58 | cmd16 | cmd17 | cmd18 | cmd12 | cmd24 | cmd25 | acmd23 =>
    exact sendCommand_faulted hf
  all_goals exact if_pos hf

/-- An instruction is run in the state with the Host's action taken off the queue. -/
theorem fetch_run {bytes : List Byte} {s u : State} (h : fetch s = .run bytes u) :
    ∃ rest, u = { s with hostq := rest } := by
  cases hq : s.hostq with
  | nil =>
    simp only [fetch, hq] at h
    cases h
  | cons action rest =>
    cases action <;> simp only [fetch, hq] at h
    case store =>
      split at h
      · cases h
        exact ⟨rest, rfl⟩
      · cases h
    case frame | token =>
      cases h
      exact ⟨rest, rfl⟩
    all_goals cases h

/-- After a fault no event but a reset, of those that are no instruction, changes anything of the block. -/
theorem fetch_step_faulted {s t : State} (hf : s.status.fault = true) (hc : s.cont = .idle)
    (h : fetch s = .step (.next t)) (hr : s.hostq.head? ≠ some .reset) : SameBlock s t := by
  cases hq : s.hostq with
  | nil =>
    simp only [fetch, hq, engineStep_idle hc] at h
    cases h
    exact .refl s
  | cons action rest =>
    refine .of_dequeued (rest := rest) ?_
    cases action <;> simp only [fetch, hq] at h
    case store =>
      split at h
      · cases h
      · exact hostStore_faulted hf (Fetched.step.inj h)
    case load => exact hostLoad_faulted hf (Fetched.step.inj h)
    case reset => exact absurd (by simp [hq]) hr
    case engine =>
      rw [engineStep_idle (s := { s with hostq := rest }) hc] at h
      cases h
      exact .refl _
    case frame | token => cases h
    case dmb =>
      cases h
      exact ⟨_, _, _, _, _, _, _, rfl⟩
    case waitDone | waitBuf =>
      cases h
      exact hostWait_sameBlock ..
    case stopOnErr =>
      cases h
      exact hostStopOnErr_sameBlock _

/-- After a fault no step but a reset changes anything of the block (R57, R321, R329). -/
theorem step_faulted {s t : State} (hf : s.status.fault = true) (hc : s.cont = .idle) (h : step s = .next t)
    (hr : s.hostq.head? ≠ some .reset) : SameBlock s t := by
  unfold step at h
  split at h
  case isFalse => cases h
  split at h
  case h_1 bytes u hfetch =>
    obtain ⟨rest, rfl⟩ := fetch_run hfetch
    split at h
    · rw [exec_faulted (s := { s with hostq := rest }) _ hf hc] at h
      cases h
      exact .of_dequeued (.refl _)
    · cases h
  case h_2 r hfetch =>
    exact fetch_step_faulted hf hc (hfetch.trans (congrArg Fetched.step h)) hr

/-- Settles O58: the level as such, then each event that moves it, and after a fault the block's state kept by every
step. -/
theorem interruptOutput : Obligations.InterruptOutput := by
  refine ⟨irq_iff, ?_, ?_, ?_, fun i s => exec_launch_irq, ?_, ?_, ?_, fun s => rfl⟩
  · intro s v hv hf
    rw [regWrite_status v hf]
    exact irq_of_not_done (by simp [clearStatus, hv]) hf
  · intro s v hv hf
    rw [regWrite_config v hf]
    simp only [State.irq, ConfigReg.ofWord, hv, Bool.false_and]
  · intro s t _ hb h hc
    obtain ⟨-, hconfig, -⟩ := engineStep_keeps h
    rw [irq_of_done ((engineStep_goesOnOrFinishes hb h).done hc), hconfig]
  · intro code s _
    rw [irq_of_fault (raiseFault_fault code s), raiseFault_config]
  · intro off v s hf
    rw [regWrite_faulted off v hf]
  · intro s t hinv hf h hr
    exact (step_faulted hf (hinv.faultHalts hf).1 h hr).irq

end Sys2Proof.Proofs
end

section
/-! PROOFS. The reserved operation codes (R103): which OPCODE writes decode to one, and the fault that launching one
raises where the block accepts a launch (R316, R321). -/
namespace Sys2Proof.Proofs
open Sys2Proof.Machine Sys2Proof.Laws

/-! ### The reserved codes -/

/-- Bits 4:0 from 0x13 up, to 0x1F, name a reserved code (R103). -/
theorem decodeOperation_reserved {v : Word} (h : 0x13 ≤ (v.extractLsb' 0 5).toNat) :
    isReserved (decodeOperation v) = true := by
  have hlt : (v.extractLsb' 0 5).toNat < 0x20 := BitVec.isLt _
  unfold decodeOperation
  generalize (v.extractLsb' 0 5).toNat = n at h hlt ⊢
  interval_cases n <;> rfl

/-- The reserved codes share one launch (R103). -/
theorem exec_reserved {i : Instr} (h : isReserved i = true) (s : State) : exec i s = launchReserved s := by
  cases i
  case reserved13 | reserved14 | reserved15 | reserved16 | reserved17 | reserved18 | reserved19 | reserved1A
      | reserved1B | reserved1C | reserved1D | reserved1E | reserved1F => rfl
  all_goals exact nomatch h

/-- Where the block accepts a launch, a reserved code raises RESERVED_OP (R103, R316). -/
theorem exec_reserved_accepting {i : Instr} {s : State} (h : isReserved i = true) (ha : s.accepting) :
    exec i s = .next (raiseFault .reservedOp s) := by
  obtain ⟨hfault, hidle⟩ := ha
  exact (exec_reserved h s).trans (launchGate_check hfault hidle rfl)

/-! ### A fault with no operation running -/

/-- With no operation running a fault leaves CRC7 and CRC16 as they are (R322). -/
theorem dropRunningCrc_idle {s : State} (h : s.cont = .idle) : dropRunningCrc s = s :=
  if_neg (by simp [(not_busy_iff s).mpr h])

/-- The first fault, where no operation runs: the code, STATUS, the bus, INIT's phase and the released chip-select
change, and nothing else (R321). -/
theorem raiseFault_accepting (code : FaultCode) {s : State} (ha : s.accepting) :
    raiseFault code s = { s with
      faultCode := code
      status := s.status.halted
      bus := s.bus.only false
      init := { s.init with phase := .idle }
      wire := s.wire ++ s.releaseEvents } := by
  obtain ⟨hfault, hidle⟩ := ha
  have hwire : (if s.bus.cs = false then s.wire else s.wire ++ [.csChange false]) = s.wire ++ s.releaseEvents := by
    unfold State.releaseEvents
    cases s.bus.cs <;> simp
  rw [raiseFault_eq code s hfault, dropRunningCrc_idle hidle, hwire, ← hidle]
  rfl

/-- Settles O14: the launch raises RESERVED_OP, whose effect is `raiseFault_accepting`; the decoder reads the code from
bits 4:0 alone. -/
theorem reservedCodes : Obligations.ReservedCodes :=
  ⟨fun _ _ hi ha => (exec_reserved_accepting hi ha).trans (congrArg Host.Outcome.next (raiseFault_accepting _ ha)),
   fun v hv => ⟨decodeOperation v, decodeOperation_reserved hv, decode_wordBytes v⟩⟩

end Sys2Proof.Proofs
end

section
/-! PROOFS. The serializer operations (R145 to R153): the word that selects one, its launch on an enabled and on a
disabled bus, what the immediate ones do to the bus, and the runs of the multi-step ones from launch to finish. -/
namespace Sys2Proof.Proofs
open Sys2Proof.Machine Sys2Proof.Laws

/-! ### The word, the launch and the finish -/

/-- Bits 4:0 of the word written to OPCODE select the operation (R100, R101). -/
theorem decode_of_opCode {i : Instr} {op : BitVec 5} (h : opCode i = some op) {v : Word}
    (hv : v.extractLsb' 0 5 = op) : decode (wordBytes v) = .ok i := by
  rw [decode_wordBytes, decodeOperation, hv]
  cases i <;> cases h <;> rfl

/-- An operation that needs the bus misses it on a disabled one, whatever else it needs (R316). -/
theorem missing_busDisabled {n : Needs} {s : State} (hn : n.bus = true) (hb : s.bus.busEn = false) :
    missing n s = some .busDisabled := by
  simp [missing, hn, hb]

/-- On a disabled bus the launch of a multi-step operation that needs the bus raises BUS_DISABLED (R313). -/
theorem launchSteps_busDisabled {op : BitVec 5} {n : Needs} {start : State → State} {s : State} (hn : n.bus = true)
    (ha : s.accepting) (hb : s.bus.busEn = false) : launchSteps op n start s = .next (raiseFault .busDisabled s) :=
  launchGate_check ha.1 ha.2 (missing_busDisabled hn hb)

/-- On a disabled bus every operation whose row of the launch table has the bus raises BUS_DISABLED (R313). -/
theorem exec_busDisabled {i : Instr} {s : State} (hi : (launchRow i).bus = true) (ha : s.accepting)
    (hb : s.bus.busEn = false) : exec i s = .next (raiseFault .busDisabled s) := by
  cases i <;> unfold exec
  case csAssert =>
    unfold execCsAssert
    exact launchGate_check ha.1 ha.2 (missing_busDisabled hi hb)
  case cmdSend =>
    unfold execCmdSend launchCmdSend
    exact launchSteps_busDisabled hi ha hb
  case idleClocks | xferByte | xferWord | readBlock | writeBlock | stopTran | busyWait =>
    exact launchSteps_busDisabled hi ha hb
  all_goals exact nomatch hi

/-- An operation that needs at most the bus misses nothing on an enabled one (R313). -/
theorem missing_busOnly {b : Bool} {s : State} (h : b = true → s.bus.busEn = true) : missing { bus := b } s = none :=
  missing_none _ s h nofun nofun nofun

/-- A launched operation that changed the bus, DATA, the wire and the Card's answers has, when it finishes, changed
these, the latch and STATUS, and nothing else (R314, R318). -/
theorem finishOk_launched {s : State} (ha : s.accepting) (op : BitVec 5) (c : Cont) (bus : BusCtl) (data : Word)
    (wire : List WireEvent) (card : List Byte) :
    finishOk { s.launched op c with bus := bus, data := data, wire := wire, card := card } = { s with
      lat := s.latchFor op, status := s.status.completed, bus := { bus with width32 := false }
      data := data, wire := wire, card := card } := by
  obtain ⟨-, hidle⟩ := ha
  simp only [finishOk, State.launched, Status.completed, hidle]

/-- An immediate operation whose body works on the bus and the wire alone (R317). -/
theorem launchImmediate_bus {op : BitVec 5} {b : Bool} {body : State → State} {s : State} {bus : BusCtl}
    {wire : List WireEvent} (ha : s.accepting) (hb : b = true → s.bus.busEn = true)
    (hbody : body (latchOperands op s) = { latchOperands op s with bus := bus, wire := wire }) :
    launchImmediate op { bus := b } body s = .next { s with
      lat := s.latchFor op, status := s.status.completed, bus := { bus with width32 := false }, wire := wire } := by
  rw [launchImmediate_go ha.1 ha.2 (missing_busOnly hb), hbody]
  exact congrArg Host.Outcome.next (finishOk_launched ha op .idle bus s.data wire s.card)

/-! ### Chip-select and the bus reset -/

/-- Chip-select asserted, with its event where it was released (R142). -/
theorem setCs_true (s : State) :
    setCs true s = { s with bus := { s.bus with cs := true }, wire := s.wire ++ s.assertEvents } := by
  rw [setCs_eq, State.assertEvents]
  cases s.bus.cs <;> simp

/-- Chip-select released, with its event where it was asserted (R142). -/
theorem setCs_false (s : State) :
    setCs false s = { s with bus := { s.bus with cs := false }, wire := s.wire ++ s.releaseEvents } := by
  rw [setCs_eq, State.releaseEvents]
  cases s.bus.cs <;> simp

/-- The bus reset keeps LEVEL alone and releases chip-select, with its event (R146, R147). -/
theorem resetBus_eq (enable : Bool) (s : State) :
    resetBus enable s = { s with bus := s.bus.only enable, wire := s.wire ++ s.releaseEvents } := by
  rw [resetBus, setCs_false]
  rfl

/-! ### The immediate operations -/

/-- NOP where a launch is accepted (R145). -/
theorem exec_nop {s : State} (ha : s.accepting) : exec .nop s = .next { s with
    lat := s.latchFor 0x00, status := s.status.completed, bus := { s.bus with width32 := false } } :=
  launchImmediate_bus (op := 0x00) (b := false) (body := fun q => q) (wire := s.wire) ha nofun rfl

/-- BUS_ENABLE where a launch is accepted (R146). -/
theorem exec_busEnable {s : State} (ha : s.accepting) : exec .busEnable s = .next { s with
    lat := s.latchFor 0x01, status := s.status.completed, bus := s.bus.only true
    wire := s.wire ++ s.releaseEvents } :=
  launchImmediate_bus (b := false) ha nofun (resetBus_eq true _)

/-- SET_SPEED where a launch is accepted (R150). -/
theorem exec_setSpeed {s : State} (ha : s.accepting) : exec .setSpeed s = .next { s with
    lat := s.latchFor 0x05, status := s.status.completed
    bus := { s.bus with
      speedOp := s.data.getLsbD 0
      level := if s.data.getLsbD 0 then s.config.level else s.bus.level
      width32 := false } } := by
  unfold exec execSetSpeed
  refine launchImmediate_bus (wire := s.wire) (bus := { s.bus with
    speedOp := s.data.getLsbD 0, level := if s.data.getLsbD 0 then s.config.level else s.bus.level }) ha nofun ?_
  cases hbit : s.data.getLsbD 0 <;> simp only [Latch.bit0, latchOperands, hbit, if_true, Bool.false_eq_true, if_false]

/-- Settles O16: the effect is `exec_nop`; STATUS.DONE makes irq follow IE. -/
theorem nopCompletes : Obligations.NopCompletes :=
  ⟨fun _ => decode_of_opCode rfl, fun _ ha => ⟨_, exec_nop ha, rfl, irq_of_done rfl⟩,
   ⟨_, exec_nop ⟨rfl, rfl⟩, rfl⟩⟩

/-- Settles O17: the effect is `exec_busEnable`; a second launch latches the same operands and finds chip-select
released. -/
theorem busEnable : Obligations.BusEnable := by
  refine ⟨fun _ => decode_of_opCode rfl, fun _ => exec_busEnable, fun s t ha h => ?_,
    ⟨_, exec_busEnable ⟨rfl, rfl⟩, rfl⟩⟩
  rw [exec_busEnable ha] at h
  cases h
  rw [exec_busEnable (by exact ha)]
  simp only [State.releaseEvents, BusCtl.only, Status.completed, State.latchFor, Bool.false_eq_true, if_false,
    List.append_nil]

/-- Settles O19: both set chip-select, `setCs_true` and `setCs_false`. -/
theorem chipSelect : Obligations.ChipSelect :=
  ⟨fun _ => decode_of_opCode rfl, fun _ => decode_of_opCode rfl,
   fun _ ha hb => launchImmediate_bus ha (fun _ => hb) (setCs_true _),
   fun _ => exec_busDisabled rfl,
   fun _ ha => launchImmediate_bus (b := false) ha nofun (setCs_false _)⟩

/-- Settles O20: the effect is `exec_setSpeed`, followed by `exec_busEnable` where the bus is then enabled. -/
theorem setSpeed : Obligations.SetSpeed := by
  refine ⟨fun _ => decode_of_opCode rfl, fun _ => exec_setSpeed, fun s ha hl hd => ⟨_, exec_setSpeed ha, ?_, ?_⟩,
    fun s ha hb => ⟨_, _, exec_setSpeed ha, hb, rfl, exec_busEnable ha, rfl, rfl, rfl⟩⟩
  · simp [hd]
  · simp [hd, hl]

/-! ### IDLE_CLOCKS -/

/-- The last byte of IDLE_CLOCKS (R151). -/
theorem engineStep_idleClocks_last {rx : Byte} {rest : List Byte} {s : State} (hf : s.status.fault = false)
    (hu : s.bus.busEn = true) (hc : s.cont = .idleClocks 1) (hcard : s.card = rx :: rest) :
    engineStep s = .next (finishOk { s with
      card := rest, wire := s.wire ++ exchanges s.bus.cs s.bus (fills 1) [rx] }) := by
  rw [engineStep_plain (tx := 0xFF) (by simp [hc]) (by simp [enginePrepare, hc]) (by simp [engineTx, hc, fill]) hf hu
    hcard]
  simp [engineAbsorb, hc, fills]

/-- IDLE_CLOCKS with count 0 finishes in a step with no exchange (R151). -/
theorem engineStep_idleClocks_zero {s : State} (hc : s.cont = .idleClocks 0) : engineStep s = .next (finishOk s) := by
  have hp : enginePrepare s = s := by simp [enginePrepare, hc]
  rw [engineStep_quiet (by simp [hc]) (by simp [engineTx, hc]), hp]
  simp [engineQuiet, hc]

/-- IDLE_CLOCKS from its first byte to its finish (R151). -/
theorem run_idleClocks_finish {rxs rest : List Byte} {s : State} (hf : s.status.fault = false)
    (hu : s.bus.busEn = true) (hc : s.cont = .idleClocks rxs.length) (hcard : s.card = rxs ++ rest) :
    engineRun (max 1 rxs.length) s = .next (finishOk { s with
      card := rest, wire := s.wire ++ exchanges s.bus.cs s.bus (fills rxs.length) rxs }) := by
  obtain rfl | ⟨front, last, rfl⟩ := List.eq_nil_or_concat' rxs
  · obtain rfl : s.card = rest := hcard
    exact (engineRun_one s).trans (by simpa using engineStep_idleClocks_zero hc)
  · have hlen : (front ++ [last]).length = front.length + 1 := by simp
    rw [hlen] at hc ⊢
    have hrun := run_idleClocks front (last :: rest) s hf hu hc (by simpa using hcard)
    rw [Nat.max_eq_right (by omega), engineRun_add hrun, engineRun_one,
      engineStep_idleClocks_last (by exact hf) (by exact hu) rfl rfl, exchanges_fills_append _ _ rfl]
    simp [finishOk]

/-- IDLE_CLOCKS where its launch is accepted (R151, R314). -/
theorem exec_idleClocks {s : State} (ha : s.accepting) (hb : s.bus.busEn = true) :
    exec .idleClocks s = .next (s.launched 0x06 (.idleClocks (s.data.extractLsb' 0 8).toNat)) := by
  unfold exec execIdleClocks
  exact launchSteps_go ha.1 ha.2 (missing_busOnly fun _ => hb)

/-- Settles O23: the launch sets the count, `run_idleClocks_finish` runs it down. -/
theorem idleClocks : Obligations.IdleClocks := by
  refine ⟨fun _ => decode_of_opCode rfl, fun _ => exec_busDisabled rfl, fun s rxs rest ha hb hn hcard => ?_⟩
  refine ⟨_, exec_idleClocks ha hb, ?_⟩
  rw [run_idleClocks_finish (by exact ha.1) (by exact hb) (congrArg Cont.idleClocks hn.symm) (by exact hcard)]
  exact congrArg Host.Outcome.next (finishOk_launched ha ..)

/-! ### XFER_BYTE -/

/-- The one step of XFER_BYTE (R152). -/
theorem engineStep_xferByte {rx : Byte} {rest : List Byte} {s : State} (hf : s.status.fault = false)
    (hu : s.bus.busEn = true) (hc : s.cont = .xferByte) (hcard : s.card = rx :: rest) :
    engineStep s = .next (finishOk { s with
      data := rx.setWidth 32
      card := rest, wire := s.wire ++ exchanges s.bus.cs s.bus [s.lat.byte] [rx] }) := by
  have hp : enginePrepare s = { s with bus := { s.bus with width32 := false } } := by simp [enginePrepare, hc]
  rw [engineStep_scripted (tx := s.lat.byte) (by simp [hc]) (by simp [hp, engineTx, hc]) (by simpa [hp] using hf)
    (by simpa [hp] using hu) hcard, hp]
  simp [engineAbsorb, hc, finishOk]

/-- XFER_BYTE where its launch is accepted (R152, R314). -/
theorem exec_xferByte {s : State} (ha : s.accepting) (hb : s.bus.busEn = true) :
    exec .xferByte s = .next (s.launched 0x07 .xferByte) := by
  unfold exec execXferByte
  exact launchSteps_go ha.1 ha.2 (missing_busOnly fun _ => hb)

/-- Settles O24: the launch and then `engineStep_xferByte`. -/
theorem xferByte : Obligations.XferByte := by
  refine ⟨fun _ => decode_of_opCode rfl, fun _ => exec_busDisabled rfl, fun s rx rest ha hb hcard => ?_⟩
  refine ⟨_, exec_xferByte ha hb, ?_⟩
  rw [engineStep_xferByte (by exact ha.1) (by exact hb) rfl (by exact hcard)]
  exact congrArg Host.Outcome.next (finishOk_launched ha ..)

/-! ### XFER_WORD -/

/-- XFER_WORD sets WIDTH32 up with its first byte and keeps it for the others (R153, log 7). -/
theorem enginePrepare_xferWord {k : Fin 4} {got : Word} {s : State} (hc : s.cont = .xferWord k got)
    (hw : k = 0 ∨ s.bus.width32 = true) : enginePrepare s = { s with bus := { s.bus with width32 := true } } := by
  simp only [enginePrepare, hc]
  split
  · rfl
  · have hwidth := hw.resolve_left ‹_›
    rw [← hwidth, ← hc]

/-- One byte of XFER_WORD up to its answer (R153). -/
theorem engineStep_xferWord {k : Fin 4} {got : Word} {rx : Byte} {rest : List Byte} {s : State}
    (hf : s.status.fault = false) (hu : s.bus.busEn = true) (hc : s.cont = .xferWord k got)
    (hw : k = 0 ∨ s.bus.width32 = true) (hcard : s.card = rx :: rest) :
    engineStep s = .next (engineAbsorb (natByte s.lat.data k) rx { s with
      bus := { s.bus with width32 := true }
      card := rest, wire := s.wire ++ exchanges s.bus.cs s.bus [natByte s.lat.data k] [rx] }) := by
  have hp := enginePrepare_xferWord hc hw
  rw [engineStep_scripted (tx := natByte s.lat.data k) (by simp [hc]) (by simp [hp, engineTx, hc])
    (by simpa [hp] using hf) (by simpa [hp] using hu) hcard, hp]
  rfl

/-- A byte of XFER_WORD that is not the last (R153). -/
theorem engineStep_xferWord_more {k : Fin 4} {got : Word} {rx : Byte} {rest : List Byte} {s : State}
    (hf : s.status.fault = false) (hu : s.bus.busEn = true) (hc : s.cont = .xferWord k got)
    (hw : k = 0 ∨ s.bus.width32 = true) (hk : k.val + 1 < 4) (hcard : s.card = rx :: rest) :
    engineStep s = .next { s with
      bus := { s.bus with width32 := true }
      cont := .xferWord ⟨k.val + 1, hk⟩ (putNatByte got k rx)
      card := rest, wire := s.wire ++ exchanges s.bus.cs s.bus [natByte s.lat.data k] [rx] } := by
  rw [engineStep_xferWord hf hu hc hw hcard]
  simp [engineAbsorb, hc, hk]

/-- The last byte of XFER_WORD (R153). -/
theorem engineStep_xferWord_last {got : Word} {rx : Byte} {rest : List Byte} {s : State}
    (hf : s.status.fault = false) (hu : s.bus.busEn = true) (hc : s.cont = .xferWord 3 got)
    (hw : s.bus.width32 = true) (hcard : s.card = rx :: rest) :
    engineStep s = .next (finishOk { s with
      data := putNatByte got 3 rx
      card := rest, wire := s.wire ++ exchanges s.bus.cs s.bus [natByte s.lat.data 3] [rx] }) := by
  rw [engineStep_xferWord hf hu hc (.inr hw) hcard]
  simp [engineAbsorb, hc, finishOk]

/-- Four bytes put in place in the natural order are the word, bits 7:0 first (R89 (c), R153). -/
theorem putNatByte_four (r0 r1 r2 r3 : Byte) :
    putNatByte (putNatByte (putNatByte (putNatByte 0 0 r0) 1 r1) 2 r2) 3 r3 = r3 ++ r2 ++ r1 ++ r0 := by
  ext j hj
  simp only [putNatByte, BitVec.getElem_or, BitVec.getElem_shiftLeft, Fin.coe_ofNat_eq_mod]
  grind

/-- XFER_WORD where its launch is accepted (R153, R314). -/
theorem exec_xferWord {s : State} (ha : s.accepting) (hb : s.bus.busEn = true) :
    exec .xferWord s = .next (s.launched 0x08 (.xferWord 0 0)) := by
  unfold exec execXferWord
  exact launchSteps_go ha.1 ha.2 (missing_busOnly fun _ => hb)

/-- XFER_WORD from its first byte to its finish (R153). -/
theorem run_xferWord {r0 r1 r2 r3 : Byte} {rest : List Byte} {s : State} (hf : s.status.fault = false)
    (hu : s.bus.busEn = true) (hc : s.cont = .xferWord 0 0) (hcard : s.card = r0 :: r1 :: r2 :: r3 :: rest) :
    engineRun 4 s = .next (finishOk { s with
      data := r3 ++ r2 ++ r1 ++ r0
      card := rest, wire := s.wire ++ exchanges s.bus.cs s.bus (wordBytes s.lat.data) [r0, r1, r2, r3] }) := by
  rw [engineRun_succ (engineStep_xferWord_more hf hu hc (.inl rfl) (by decide) hcard),
    engineRun_succ (engineStep_xferWord_more (k := 1) (by exact hf) (by exact hu) rfl (.inr rfl) (by decide) rfl),
    engineRun_succ (engineStep_xferWord_more (k := 2) (by exact hf) (by exact hu) rfl (.inr rfl) (by decide) rfl),
    engineRun_one, engineStep_xferWord_last (by exact hf) (by exact hu) rfl rfl rfl, putNatByte_four]
  simp [finishOk, wordBytes, natByte]

/-- A byte of XFER_WORD that is not the last leaves WIDTH32 set and the next byte to come, whatever the Card answers
(R153). -/
theorem engineStep_xferWord_width {k : Fin 4} {got : Word} {s t : State} (hc : s.cont = .xferWord k got)
    (hw : k = 0 ∨ s.bus.width32 = true) (hk : k.val + 1 < 4) (h : engineStep s = .next t) :
    t.bus.width32 = true ∧ ∃ got', t.cont = .xferWord ⟨k.val + 1, hk⟩ got' := by
  obtain ⟨hidle, -⟩ | ⟨-, htx, -⟩ | ⟨-, tx, -, -, -, rfl⟩ := engineStep_cases h
  · simp [hc] at hidle
  · simp [engineTx, hc] at htx
  · simp [engineAbsorb, hc, hk, enginePrepare_xferWord hc hw]

/-- WIDTH32 is set between the bytes of XFER_WORD, whatever the Card answers (R153). -/
theorem run_xferWord_width {j : Nat} {k : Fin 4} {got : Word} {s u : State} (hc : s.cont = .xferWord k got)
    (hw : k = 0 ∨ s.bus.width32 = true) (hk : k.val + (j + 1) < 4) (h : engineRun (j + 1) s = .next u) :
    u.bus.width32 = true := by
  induction j generalizing k got s with
  | zero =>
    rw [engineRun_one] at h
    exact (engineStep_xferWord_width hc hw hk h).1
  | succ j ih =>
    cases hs : engineStep s with
    | next t =>
      obtain ⟨hwidth, got', hcont⟩ := engineStep_xferWord_width hc hw (by omega) hs
      rw [engineRun_succ hs] at h
      exact ih hcont (.inr hwidth) (by simp only; omega) h
    | fault | refused => simp [engineRun, hs] at h

/-- Settles O25: the launch, `run_xferWord_width` between the bytes and `run_xferWord` to the end; the worked example
is that run on its four answers. -/
theorem xferWord : Obligations.XferWord := by
  refine ⟨fun _ => decode_of_opCode rfl, fun _ => exec_busDisabled rfl,
    fun s r0 r1 r2 r3 rest ha hb hcard => ⟨_, exec_xferWord ha hb, fun k u h0 h4 h => ?_, ?_⟩,
    fun s rest ha hb _ hcard =>
      ⟨_, _, exec_xferWord ha hb, run_xferWord (by exact ha.1) (by exact hb) rfl (by exact hcard), rfl⟩⟩
  · obtain ⟨j, rfl⟩ := Nat.exists_eq_add_of_lt h0
    exact run_xferWord_width rfl (.inl rfl) (by simpa using h4) (by simpa using h)
  · rw [run_xferWord (by exact ha.1) (by exact hb) rfl (by exact hcard)]
    exact congrArg Host.Outcome.next (finishOk_launched ha ..)

end Sys2Proof.Proofs
end

section
/-! PROOFS. The operations of the CRC units on their own (R174, R175): their launch, body and finish in one step. -/
namespace Sys2Proof.Proofs
open Sys2Proof.Machine Sys2Proof.Laws

/-- An immediate operation that needs no bus and whose body works on the CRC registers alone has, when it finishes,
changed these, the latch, STATUS and WIDTH32, and nothing else (R317). -/
theorem launchImmediate_crc {op : BitVec 5} {body : State → State} {s : State} {crc7 : BitVec 7} {crc16 : BitVec 16}
    (ha : s.accepting)
    (hbody : body (latchOperands op s) = { latchOperands op s with crc7 := crc7, crc16 := crc16 }) :
    launchImmediate op {} body s = .next { s with
      lat := s.latchFor op, status := s.status.completed, bus := { s.bus with width32 := false }
      crc7 := crc7, crc16 := crc16 } := by
  have hfinish := finishOk_launched (s := { s with crc7 := crc7, crc16 := crc16 }) ha op .idle s.bus s.data s.wire
    s.card
  rw [launchImmediate_go ha.1 ha.2 (missing_busOnly (b := false) nofun), hbody]
  exact congrArg Host.Outcome.next hfinish

/-- CRC7_CLEAR where a launch is accepted (R174). -/
theorem exec_crc7Clear {s : State} (ha : s.accepting) : exec .crc7Clear s = .next { s with
    lat := s.latchFor 0x09, status := s.status.completed, bus := { s.bus with width32 := false }, crc7 := 0 } := by
  unfold exec execCrc7Clear
  exact launchImmediate_crc (crc16 := s.crc16) ha rfl

/-- CRC7_FEED where a launch is accepted: the fed byte is that of the latched DATA (R175). -/
theorem exec_crc7Feed {s : State} (ha : s.accepting) : exec .crc7Feed s = .next { s with
    lat := s.latchFor 0x0A, status := s.status.completed, bus := { s.bus with width32 := false }
    crc7 := crc7Step s.crc7 (s.data.extractLsb' 0 8) } := by
  unfold exec execCrc7Feed
  exact launchImmediate_crc (crc16 := s.crc16) ha rfl

/-- Settles O21: the effects are `exec_crc7Clear` and `exec_crc7Feed`; the closed values are computed. -/
theorem crc7Ops : Obligations.Crc7Ops :=
  ⟨fun _ => decode_of_opCode rfl, fun _ => decode_of_opCode rfl, fun _ => exec_crc7Clear, fun _ => exec_crc7Feed,
   by decide, by decide +kernel, by decide⟩

end Sys2Proof.Proofs
end

section
/-! PROOFS. The operations of the CRC-16 accumulator on its own (R188, R189), by the rule `launchImmediate_crc`. -/
namespace Sys2Proof.Proofs
open Sys2Proof.Machine Sys2Proof.Laws

/-- CRC16_CLEAR where a launch is accepted (R188). -/
theorem exec_crc16Clear {s : State} (ha : s.accepting) : exec .crc16Clear s = .next { s with
    lat := s.latchFor 0x0B, status := s.status.completed, bus := { s.bus with width32 := false }, crc16 := 0 } := by
  unfold exec execCrc16Clear
  exact launchImmediate_crc (crc7 := s.crc7) ha rfl

/-- CRC16_FEED where a launch is accepted: the fed byte is that of the latched DATA (R189). -/
theorem exec_crc16Feed {s : State} (ha : s.accepting) : exec .crc16Feed s = .next { s with
    lat := s.latchFor 0x0C, status := s.status.completed, bus := { s.bus with width32 := false }
    crc16 := crc16Step s.crc16 (s.data.extractLsb' 0 8) } := by
  unfold exec execCrc16Feed
  exact launchImmediate_crc (crc7 := s.crc7) ha rfl

/-- Settles O22: the effects are `exec_crc16Clear` and `exec_crc16Feed`; the closed values are computed. -/
theorem crc16Ops : Obligations.Crc16Ops :=
  ⟨fun _ => decode_of_opCode rfl, fun _ => decode_of_opCode rfl, fun _ => exec_crc16Clear, fun _ => exec_crc16Feed,
   by decide, by decide⟩

end Sys2Proof.Proofs
end

section
/-! PROOFS. The busy poll and the two operations that end with it, BUSY_WAIT and STOP_TRAN (R250 to R252): the launch
and its faults, the poll up to READY and up to its bound, whoever polls, and the finish of either end. -/
namespace Sys2Proof.Proofs
open Sys2Proof.Machine Sys2Proof.Laws

/-! ### The launch -/

/-- An operation that needs a Ready card and finds the bus enabled and another card state misses the card (R316). -/
theorem missing_notReady {n : Needs} {s : State} (hn : n.ready = true) (hb : s.bus.busEn = true)
    (hr : s.status.cardState ≠ .ready) : missing n s = some .notReady := by
  simp [missing, hn, hb, hr]

/-- An operation that needs chip-select and finds the bus, and the card where it needs one, misses chip-select
(R316). -/
theorem missing_notSelected {n : Needs} {s : State} (hn : n.cs = true) (hb : s.bus.busEn = true)
    (hr : n.ready = true → s.status.cardState = .ready) (hc : s.bus.cs = false) :
    missing n s = some .notSelected := by
  cases hneeds : n.ready
  · simp [missing, hn, hb, hc, hneeds]
  · simp [missing, hn, hb, hc, hr hneeds]

/-- Where a launch is accepted, the first requirement that a multi-step operation misses raises its fault (R313). -/
theorem launchSteps_missing {op : BitVec 5} {n : Needs} {start : State → State} {s : State} {code : FaultCode}
    (ha : s.accepting) (hm : missing n s = some code) : launchSteps op n start s = .next (raiseFault code s) :=
  launchGate_check ha.1 ha.2 hm

/-- On an enabled bus every operation whose row of the launch table has a Ready card raises NOT_READY in another card
state (R313). -/
theorem exec_notReady {i : Instr} {s : State} (hi : (launchRow i).ready = true) (ha : s.accepting)
    (hb : s.bus.busEn = true) (hr : s.status.cardState ≠ .ready) : exec i s = .next (raiseFault .notReady s) := by
  cases i <;> unfold exec
  case readBlock | writeBlock | stopTran => exact launchSteps_missing ha (missing_notReady hi hb hr)
  all_goals exact nomatch hi

/-- Every operation whose row of the launch table has chip-select raises NOT_SELECTED where only that is missing
(R313). -/
theorem exec_notSelected {i : Instr} {s : State} (hi : (launchRow i).cs = true) (ha : s.accepting)
    (hb : s.bus.busEn = true) (hr : (launchRow i).ready = true → s.status.cardState = .ready) (hc : s.bus.cs = false) :
    exec i s = .next (raiseFault .notSelected s) := by
  cases i <;> unfold exec
  case readBlock | writeBlock | stopTran | busyWait =>
    exact launchSteps_missing ha (missing_notSelected hi hb hr hc)
  all_goals exact nomatch hi

/-- BUSY_WAIT where its launch is accepted (R251, R314). -/
theorem exec_busyWait {s : State} (ha : s.accepting) (hl : launchOk .busyWait s) :
    exec .busyWait s = .next (s.launched 0x11 (.busy .busyWait 0)) := by
  unfold exec execBusyWait
  exact launchSteps_go ha.1 ha.2 (missing_launchRow hl)

/-- STOP_TRAN where its launch is accepted (R252, R314). -/
theorem exec_stopTran {s : State} (ha : s.accepting) (hl : launchOk .stopTran s) :
    exec .stopTran s = .next (s.launched 0x10 .stopToken) := by
  unfold exec execStopTran
  exact launchSteps_go ha.1 ha.2 (missing_launchRow hl)

/-! ### The busy poll, whoever polls -/

/-- One sample of the busy poll up to its answer, with POLL set up (R250, log 7). -/
theorem engineStep_busy {u : BusyUser} {k : Nat} {rx : Byte} {rest : List Byte} {s : State}
    (hf : s.status.fault = false) (hu : s.bus.busEn = true) (hc : s.cont = .busy u k) (hcard : s.card = rx :: rest) :
    engineStep s = .next (engineAbsorb 0xFF rx { s with
      status := { s.status with poll := true }
      card := rest, wire := s.wire ++ exchanges s.bus.cs s.bus (fills 1) [rx] }) := by
  have hp : enginePrepare s = { s with status := { s.status with poll := true } } := by simp [enginePrepare, hc]
  rw [engineStep_scripted (tx := 0xFF) (by simp [hc]) (by simp [hp, engineTx, hc, fill]) (by simpa [hp] using hf)
    (by simpa [hp] using hu) hcard, hp]
  rfl

/-- The sample 0xFF ends the busy poll with READY (R250). -/
theorem engineStep_busy_ready {u : BusyUser} {k : Nat} {rest : List Byte} {s : State} (hf : s.status.fault = false)
    (hu : s.bus.busEn = true) (hc : s.cont = .busy u k) (hcard : s.card = 0xFF :: rest) :
    engineStep s = .next (busyReturn u true { s with
      card := rest, wire := s.wire ++ exchanges s.bus.cs s.bus (fills 1) [0xFF] }) := by
  rw [engineStep_busy hf hu hc hcard]
  simp only [engineAbsorb, hc]
  rw [if_pos (show (0xFF : Byte) = fill from rfl)]
  rfl

/-- A busy sample that is the last of the bound ends the busy poll with TIMEOUT (R250). -/
theorem engineStep_busy_timeout {u : BusyUser} {k : Nat} {rx : Byte} {rest : List Byte} {s : State}
    (hf : s.status.fault = false) (hu : s.bus.busEn = true) (hc : s.cont = .busy u k) (hrx : rx ≠ 0xFF)
    (hk : busyBound s.params ≤ k + 1) (hcard : s.card = rx :: rest) :
    engineStep s = .next (busyReturn u false { s with
      card := rest, wire := s.wire ++ exchanges s.bus.cs s.bus (fills 1) [rx] }) := by
  rw [engineStep_busy hf hu hc hcard]
  simp only [engineAbsorb, hc]
  rw [if_neg (by exact hrx), if_pos hk]
  rfl

/-- The busy poll from its first sample to READY (R250). -/
theorem run_busy_ready {u : BusyUser} {busy rest : List Byte} {s : State} (hf : s.status.fault = false)
    (hu : s.bus.busEn = true) (hc : s.cont = .busy u 0) (hbusy : ∀ b ∈ busy, b ≠ 0xFF)
    (hn : busy.length < busyBound s.params) (hcard : s.card = busy ++ 0xFF :: rest) :
    engineRun (busy.length + 1) s = .next (busyReturn u true { s with
      cont := .busy u busy.length
      card := rest
      wire := s.wire ++ exchanges s.bus.cs s.bus (fills (busy.length + 1)) (busy ++ [0xFF]) }) := by
  have hrun := run_busy u busy (0xFF :: rest) 0 s hf hu hc hbusy (by omega) hcard
  rw [engineRun_add hrun, engineRun_one, engineStep_busy_ready (by exact hf) (by exact hu) rfl rfl,
    exchanges_fills_append _ _ rfl, Nat.zero_add]
  simp only [busyReturn, List.append_assoc]

/-- The busy poll from its first sample to its bound (R250). -/
theorem run_busy_timeout {u : BusyUser} {busy rest : List Byte} {s : State} (hf : s.status.fault = false)
    (hu : s.bus.busEn = true) (hc : s.cont = .busy u 0) (hbusy : ∀ b ∈ busy, b ≠ 0xFF)
    (hn : busy.length = busyBound s.params) (hne : busy ≠ []) (hcard : s.card = busy ++ rest) :
    engineRun busy.length s = .next (busyReturn u false { s with
      cont := .busy u (busy.length - 1)
      card := rest
      wire := s.wire ++ exchanges s.bus.cs s.bus (fills busy.length) busy }) := by
  obtain ⟨front, last, rfl⟩ := (List.eq_nil_or_concat' busy).resolve_left hne
  have hlen : (front ++ [last]).length = front.length + 1 := by simp
  rw [hlen] at hn ⊢
  have hrun := run_busy u front (last :: rest) 0 s hf hu hc (fun b hb => hbusy b (by simp [hb])) (by omega)
    (by simpa using hcard)
  rw [engineRun_add hrun, engineRun_one,
    engineStep_busy_timeout (by exact hf) (by exact hu) rfl (hbusy last (by simp)) (by simp only; omega) rfl,
    exchanges_fills_append _ _ rfl, Nat.zero_add]
  simp only [busyReturn, List.append_assoc, Nat.add_sub_cancel]

/-- POLL is 1 after every busy sample below the bound (R250). -/
theorem run_busy_poll {u : BusyUser} {busy rest : List Byte} {k : Nat} {s v : State} (hf : s.status.fault = false)
    (hu : s.bus.busEn = true) (hc : s.cont = .busy u 0) (hbusy : ∀ b ∈ busy, b ≠ 0xFF)
    (hn : busy.length < busyBound s.params) (hcard : s.card = busy ++ rest) (h0 : 0 < k) (hk : k ≤ busy.length)
    (hrun : engineRun k s = .next v) : v.status.poll = true := by
  have hlen : (busy.take k).length = k := List.length_take_of_le hk
  have hne : busy.take k ≠ [] := List.ne_nil_of_length_pos (by omega)
  have hcard' : s.card = busy.take k ++ (busy.drop k ++ rest) := by
    rw [hcard, ← List.append_assoc, List.take_append_drop]
  have htaken := run_busy u (busy.take k) _ 0 s hf hu hc (fun b hb => hbusy b (List.mem_of_mem_take hb)) (by omega)
    hcard'
  rw [hlen, hrun] at htaken
  rw [Host.Outcome.next.inj htaken]
  exact if_neg hne

/-! ### The two ends of an operation that polls -/

/-- READY finishes an operation that polls for itself with DONE (R251, R252). -/
theorem busyReturn_ready {u : BusyUser} (huser : ∀ c r1, u ≠ .txn c r1) (s : State) :
    busyReturn u true s = finishOk s := by
  cases u with
  | txn c r1 => exact absurd rfl (huser c r1)
  | writeBlock | stopTran | busyWait => rfl

/-- The failed finish of an operation other than INIT (R319). -/
theorem finishErr_eq (code : ErrCode) {s : State} (hop : s.lat.op ≠ initCode) :
    finishErr code s = { s with
      status := s.status.failed code
      bus := { s.bus with cs := false, width32 := false }
      wire := s.wire ++ s.releaseEvents
      cont := .idle } := by
  simp [finishErr, setCs_false, Status.failed, hop]

/-- The bound finishes an operation that polls for itself with BUSY_TIMEOUT (R251, R252, R319). -/
theorem busyReturn_timeout {u : BusyUser} (huser : ∀ c r1, u ≠ .txn c r1) {s : State} (hop : s.lat.op ≠ initCode) :
    busyReturn u false s = { s with
      status := s.status.failed .busyTimeout
      bus := { s.bus with cs := false, width32 := false }
      wire := s.wire ++ s.releaseEvents
      cont := .idle } := by
  cases u with
  | txn c r1 => exact absurd rfl (huser c r1)
  | writeBlock | stopTran | busyWait => exact finishErr_eq .busyTimeout (by exact hop)

/-- A launched operation under asserted chip-select, from its first sample to READY: what its launch and the finish
change, and nothing else (R251, R252, R318). -/
theorem run_launched_busy_ready {op : BitVec 5} {u : BusyUser} {busy rest : List Byte} {wire : List WireEvent}
    {s : State} (huser : ∀ c r1, u ≠ .txn c r1) (ha : s.accepting) (hu : s.bus.busEn = true) (hcs : s.bus.cs = true)
    (hbusy : ∀ b ∈ busy, b ≠ 0xFF) (hn : busy.length < busyBound s.params) :
    engineRun (busy.length + 1) { s.launched op (.busy u 0) with wire := wire, card := busy ++ 0xFF :: rest } =
      .next { s with
        lat := s.latchFor op
        status := s.status.completed
        bus := { s.bus with width32 := false }
        wire := wire ++ exchanges true s.bus (fills (busy.length + 1)) (busy ++ [0xFF])
        card := rest } := by
  have hevents : exchanges true s.bus = exchanges s.bus.cs s.bus := by rw [hcs]
  rw [run_busy_ready (by exact ha.1) (by exact hu) rfl hbusy (by exact hn) rfl, busyReturn_ready huser, hevents]
  exact congrArg Host.Outcome.next (finishOk_launched ha ..)

/-- A launched operation under asserted chip-select, from its first sample to the bound: what its launch and the failed
finish change, and nothing else (R251, R252, R319). -/
theorem run_launched_busy_timeout {op : BitVec 5} {u : BusyUser} {busy rest : List Byte} {wire : List WireEvent}
    {s : State} (huser : ∀ c r1, u ≠ .txn c r1) (hop : op ≠ initCode) (ha : s.accepting) (hu : s.bus.busEn = true)
    (hcs : s.bus.cs = true) (hbusy : ∀ b ∈ busy, b ≠ 0xFF) (hn : busy.length = busyBound s.params) (hne : busy ≠ []) :
    engineRun busy.length { s.launched op (.busy u 0) with wire := wire, card := busy ++ rest } =
      .next { s with
        lat := s.latchFor op
        status := s.status.failed .busyTimeout
        bus := { s.bus with cs := false, width32 := false }
        wire := wire ++ exchanges true s.bus (fills busy.length) busy ++ [.csChange false]
        card := rest } := by
  obtain ⟨hfault, hidle⟩ := ha
  rw [run_busy_timeout (by exact hfault) (by exact hu) rfl hbusy (by exact hn) hne rfl,
    busyReturn_timeout huser (by exact hop)]
  simp only [State.launched, State.releaseEvents, hcs, hidle, if_true]
  rfl

/-! ### BUSY_WAIT -/

/-- Settles O35: the launch, then the poll to READY by `run_launched_busy_ready` and to the bound by
`run_launched_busy_timeout`; POLL on the way is `run_busy_poll`. -/
theorem busyWait : Obligations.BusyWait := by
  refine ⟨fun _ => decode_of_opCode rfl, fun _ => exec_busDisabled rfl,
    fun _ ha hb => exec_notSelected rfl ha hb nofun,
    fun s busy rest ha hl hbusy hn hcard => ⟨_, exec_busyWait ha hl, fun k u h0 hk hrun => ?_, ?_⟩,
    fun s busy rest ha hl hbusy hn hne hcard => ⟨_, exec_busyWait ha hl, ?_⟩⟩
  all_goals obtain ⟨hbus, -, hcs, -⟩ := hl
  · rw [List.append_assoc] at hcard
    exact run_busy_poll (by exact ha.1) (by exact hbus rfl) rfl hbusy (by exact hn) (by exact hcard) h0 hk hrun
  · rw [List.append_assoc, List.singleton_append] at hcard
    have hrun := run_launched_busy_ready (op := 0x11) (u := .busyWait) (rest := rest) (wire := s.wire) nofun ha
      (hbus rfl) (hcs rfl) hbusy hn
    rwa [← hcard] at hrun
  · have hrun := run_launched_busy_timeout (op := 0x11) (u := .busyWait) (rest := rest) (wire := s.wire) nofun
      (by decide) ha (hbus rfl) (hcs rfl) hbusy hn hne
    rwa [← hcard] at hrun

/-! ### STOP_TRAN -/

/-- The step that sends the stop token (R252). -/
theorem engineStep_stopToken {rx : Byte} {rest : List Byte} {s : State} (hf : s.status.fault = false)
    (hu : s.bus.busEn = true) (hc : s.cont = .stopToken) (hcard : s.card = rx :: rest) :
    engineStep s = .next { s with
      cont := .stopGap, card := rest, wire := s.wire ++ exchanges s.bus.cs s.bus [0xFD] [rx] } := by
  rw [engineStep_plain (tx := 0xFD) (by simp [hc]) (by simp [enginePrepare, hc])
    (by simp [engineTx, hc, stopTokenByte]) hf hu hcard]
  simp [engineAbsorb, hc]

/-- The fill byte after the stop token (R252). -/
theorem engineStep_stopGap {rx : Byte} {rest : List Byte} {s : State} (hf : s.status.fault = false)
    (hu : s.bus.busEn = true) (hc : s.cont = .stopGap) (hcard : s.card = rx :: rest) :
    engineStep s = .next { s with
      cont := .busy .stopTran 0, card := rest, wire := s.wire ++ exchanges s.bus.cs s.bus [0xFF] [rx] } := by
  rw [engineStep_plain (tx := 0xFF) (by simp [hc]) (by simp [enginePrepare, hc]) (by simp [engineTx, hc, fill]) hf hu
    hcard]
  simp [engineAbsorb, hc]

/-- STOP_TRAN from its launch to its busy poll: both answers are discarded (R252). -/
theorem run_stopTran_toPoll {a b : Byte} {tail : List Byte} {s : State} (ha : s.accepting) (hu : s.bus.busEn = true)
    (hcs : s.bus.cs = true) (hcard : s.card = a :: b :: tail) :
    engineRun 2 (s.launched 0x10 .stopToken) = .next { s.launched 0x10 (.busy .stopTran 0) with
      wire := s.wire ++ exchanges true s.bus [0xFD, 0xFF] [a, b], card := tail } := by
  rw [engineRun_succ (engineStep_stopToken (by exact ha.1) (by exact hu) rfl (by exact hcard)), engineRun_one,
    engineStep_stopGap (by exact ha.1) (by exact hu) rfl rfl]
  simp [State.launched, hcs]

/-- Settles O36: the launch, `run_stopTran_toPoll`, and then the poll as for BUSY_WAIT. -/
theorem stopTran : Obligations.StopTran := by
  refine ⟨fun _ => decode_of_opCode rfl, fun _ => exec_busDisabled rfl,
    fun _ => exec_notReady rfl,
    fun _ ha hb hr => exec_notSelected rfl ha hb (fun _ => hr),
    fun s a b busy rest ha hl hbusy hn hcard => ⟨_, exec_stopTran ha hl, fun k u h2 hk hrun => ?_, ?_⟩,
    fun s a b busy rest ha hl hbusy hn hne hcard => ⟨_, exec_stopTran ha hl, ?_⟩⟩
  all_goals obtain ⟨hbus, -, hcs, -⟩ := hl
  · have htoPoll := run_stopTran_toPoll (tail := busy ++ 0xFF :: rest) ha (hbus rfl) (hcs rfl) (by simpa using hcard)
    obtain ⟨j, rfl⟩ := Nat.exists_eq_add_of_lt h2
    rw [Nat.add_assoc, engineRun_add htoPoll] at hrun
    exact run_busy_poll (by exact ha.1) (by exact hbus rfl) rfl hbusy (by exact hn) rfl j.succ_pos (by omega) hrun
  · have htoPoll := run_stopTran_toPoll (tail := busy ++ 0xFF :: rest) ha (hbus rfl) (hcs rfl) (by simpa using hcard)
    rw [Nat.add_assoc, engineRun_add htoPoll,
      run_launched_busy_ready (u := .stopTran) nofun ha (hbus rfl) (hcs rfl) hbusy (by exact hn)]
    simp [fills_succ]
  · have htoPoll := run_stopTran_toPoll (tail := busy ++ rest) ha (hbus rfl) (hcs rfl) (by simpa using hcard)
    rw [engineRun_add htoPoll, run_launched_busy_timeout (u := .stopTran) nofun (by decide) ha (hbus rfl) (hcs rfl)
      hbusy (by exact hn) hne]
    simp [fills_succ]

end Sys2Proof.Proofs
end

section
/-! PROOFS. The decoder and the encoder (R100, R103, R110, R115, R117): each undoes the other on the words of the
tables, what the decoder rejects, the bytes of a frame, and the step that runs what it decodes. -/
namespace Sys2Proof.Proofs
open Sys2Proof.Machine Sys2Proof.Laws

/-! ### Decoding what is encoded -/

/-- A bit vector is the number it stands for. -/
theorem eq_ofNat_of_toNat {w n : Nat} {x : BitVec w} (h : x.toNat = n) : x = BitVec.ofNat w n := by
  rw [← h, BitVec.ofNat_toNat, BitVec.setWidth_eq]

/-- The named row of an index spells the index, so that the encoding of a frame's instruction is the encoding of its
fields whichever row it is (R110). -/
theorem encode_frameOfFields (idx : BitVec 6) (arg : Word) (crc : BitVec 7) :
    encode (frameOfFields idx arg crc) = encodeFrame idx arg crc := by
  unfold frameOfFields
  split
  case h_14 => rfl
  all_goals
    obtain rfl := eq_ofNat_of_toNat (x := idx) ‹_›
    rfl

/-- An index with no row of its own has the row of any index. -/
theorem frameOfFields_unnamed {idx : BitVec 6} (h : namedIndices.contains idx = false) (arg : Word) (crc : BitVec 7) :
    frameOfFields idx arg crc = .sdFrame idx arg crc := by
  unfold frameOfFields
  split
  case h_14 => rfl
  all_goals
    obtain rfl := eq_ofNat_of_toNat (x := idx) ‹_›
    exact absurd h (by decide)

/-- A frame decodes to the instruction of its fields (R110). -/
theorem decode_encodeFrame (idx : BitVec 6) (arg : Word) (crc : BitVec 7) :
    decode (encodeFrame idx arg crc) = .ok (frameOfFields idx arg crc) := by
  obtain ⟨hstart, hend, hidx, harg, hcrc⟩ := frame_fields idx arg crc
  rw [encodeFrame, decode_frameWordBytes, decodeFrame, if_neg (not_not.mpr hstart), if_neg (not_not.mpr hend), hidx,
    harg, hcrc]

/-- A byte of the data-response form is the token of its fields, as bit 4 tells it from the tokens of R115 (R117). -/
theorem decodeToken_response (ignored status : BitVec 3) :
    decodeToken (responseByte ignored status) = .ok (.dataResponse ignored status) := by
  revert ignored status
  decide

/-- Settles O6: an operation by `decode_wordBytes`, a frame by `decode_encodeFrame`, a response token by
`decodeToken_response`. -/
theorem decodeEncode : Obligations.DecodeEncode := by
  intro i hwf
  cases i
  case sdFrame idx arg crc =>
    simp only [Instr.wellFormed, Bool.and_eq_true, Bool.not_eq_true'] at hwf
    rw [encode, decode_encodeFrame, frameOfFields_unnamed hwf.1]
  case cmd0 | cmd8 | cmd59 | cmd55 | acmd41 | cmd58 | cmd16 | cmd17 | cmd18 | cmd12 | cmd24 | cmd25 | acmd23 =>
    exact decode_encodeFrame _ _ _
  case startToken | startTokenMulti | stopToken => rfl
  case dataResponse ignored status => exact decodeToken_response ignored status
  all_goals exact decode_wordBytes _

/-! ### Encoding what is decoded -/

/-- The bytes of a frame put together from six bytes are these bytes (R110). -/
theorem frameWordBytes_append (b0 b1 b2 b3 b4 b5 : Byte) :
    frameWordBytes (b0 ++ b1 ++ b2 ++ b3 ++ b4 ++ b5) = [b0, b1, b2, b3, b4, b5] := by
  simp only [frameWordBytes, List.cons.injEq, and_true]
  refine ⟨?_, ?_, ?_, ?_, ?_, ?_⟩ <;> (ext j hj; simp; grind)

/-- A frame is its five fields put together (R110). -/
theorem frame_of_fields (w : BitVec 48) :
    w.extractLsb' 46 2 ++ w.extractLsb' 40 6 ++ w.extractLsb' 8 32 ++ w.extractLsb' 1 7 ++ w.extractLsb' 0 1 = w := by
  ext j hj
  simp
  grind

/-- A byte is its four fields of R117 put together. -/
theorem token_of_fields (b : Byte) :
    b.extractLsb' 5 3 ++ b.extractLsb' 4 1 ++ b.extractLsb' 1 3 ++ b.extractLsb' 0 1 = b := by
  ext j hj
  simp
  grind

/-- A token is the encoding of what it decodes to (R115, R117). -/
theorem encode_decodeToken {b : Byte} {i : Instr} (h : decodeToken b = .ok i) : encode i = [b] := by
  unfold decodeToken at h
  split at h
  · cases h
    exact congrArg (fun x => [x]) (Eq.symm ‹_›)
  · split at h
    · cases h
      exact congrArg (fun x => [x]) (Eq.symm ‹_›)
    · split at h
      · cases h
        exact congrArg (fun x => [x]) (Eq.symm ‹_›)
      · split at h
        · obtain ⟨hgap, hend⟩ := ‹b.extractLsb' 4 1 = 0#1 ∧ _›
          cases h
          rw [encode, ← hgap, ← hend, token_of_fields]
        · cases h

/-- A frame is the encoding of what it decodes to (R110). -/
theorem encode_decodeFrame {w : BitVec 48} {i : Instr} (h : decodeFrame w = .ok i) : encode i = frameWordBytes w := by
  unfold decodeFrame at h
  split at h
  · cases h
  · split at h
    · cases h
    · rename_i hstart hend
      cases h
      rw [encode_frameOfFields, encodeFrame, ← not_not.mp hstart, ← not_not.mp hend, frame_of_fields]

/-- What an OPCODE write decodes to is encoded as the five bits of its code and zeros (R100, R103). -/
theorem encode_decodeOperation (v : Word) :
    encode (decodeOperation v) = [BitVec.ofNat 8 (v.extractLsb' 0 5).toNat, 0, 0, 0] := by
  have hlt : (v.extractLsb' 0 5).toNat < 0x20 := BitVec.isLt _
  unfold decodeOperation
  generalize (v.extractLsb' 0 5).toNat = n at hlt ⊢
  interval_cases n <;> rfl

/-- The code of an OPCODE write is in the low five bits of its first byte (R33, R100). -/
theorem code_of_bytes (b0 b1 b2 b3 : Byte) :
    BitVec.ofNat 8 ((b3 ++ b2 ++ b1 ++ b0).extractLsb' 0 5).toNat = b0 &&& 0x1F := by
  rw [BitVec.extractLsb'_append_eq_of_add_le (by decide)]
  apply BitVec.eq_of_toNat_eq
  have hand : b0.toNat &&& 31 = b0.toNat % 2 ^ 5 := Nat.and_two_pow_sub_one_eq_mod b0.toNat 5
  have hmask : (0x1F : Byte).toNat = 31 := rfl
  simp only [BitVec.toNat_ofNat, BitVec.extractLsb'_toNat, BitVec.toNat_and, Nat.shiftRight_zero, hmask, hand]
  omega

/-- Settles O7: a token, a frame and an OPCODE write each by its decoder's own lemma above. -/
theorem encodeDecode : Obligations.EncodeDecode := by
  refine ⟨fun b i => encode_decodeToken, fun b0 b1 b2 b3 b4 b5 i h => ?_, fun b0 b1 b2 b3 => ⟨_, rfl, ?_⟩⟩
  · rw [encode_decodeFrame h, frameWordBytes_append]
  · rw [encode_decodeOperation, code_of_bytes]

/-! ### What the decoder rejects -/

/-- One bit taken out of a bit vector. -/
theorem extractLsb'_one {w : Nat} (x : BitVec w) (i : Nat) : x.extractLsb' i 1 = BitVec.ofBool (x.getLsbD i) := by
  apply BitVec.eq_of_getLsbD_eq
  intro j hj
  obtain rfl : j = 0 := by omega
  simp

/-- A bit is 0, or 1, as a bit vector of width 1. -/
theorem extractLsb'_one_eq {w : Nat} (x : BitVec w) (i : Nat) :
    (x.extractLsb' i 1 = 0#1 ↔ x.getLsbD i = false) ∧ (x.extractLsb' i 1 = 1#1 ↔ x.getLsbD i = true) := by
  rw [extractLsb'_one]
  cases x.getLsbD i <;> decide

/-- The decoder rejects a byte as no token, and only where it is neither a token of R115 nor of the form of R117. -/
theorem decodeToken_error (b : Byte) : decodeToken b = .error .notAToken ↔
    b ≠ 0xFE ∧ b ≠ 0xFC ∧ b ≠ 0xFD ∧ ¬(b.getLsbD 4 = false ∧ b.getLsbD 0 = true) := by
  rw [← (extractLsb'_one_eq b 4).1, ← (extractLsb'_one_eq b 0).2]
  unfold decodeToken
  split
  · simp_all
  · split
    · simp_all
    · split
      · simp_all
      · split <;> simp_all

/-- A byte that decodes to nothing is rejected as no token. -/
theorem decodeToken_error_only {b : Byte} {e : DecodeError} (h : decodeToken b = .error e) : e = .notAToken := by
  unfold decodeToken at h
  repeat (split at h; · cases h)
  cases h
  rfl

/-- The start bits of a frame are the top two bits of its first byte (R110). -/
theorem startBits_of_bytes (b0 b1 b2 b3 b4 b5 : Byte) :
    (b0 ++ b1 ++ b2 ++ b3 ++ b4 ++ b5).extractLsb' 46 2 = 0b01#2 ↔ b0 >>> 6 = 1 := by
  have htop : (b0 ++ b1 ++ b2 ++ b3 ++ b4 ++ b5).extractLsb' 46 2 = b0.extractLsb' 6 2 := by
    ext j hj
    simp
    grind
  have hlt := b0.isLt
  rw [htop, ← BitVec.toNat_inj, ← BitVec.toNat_inj, BitVec.extractLsb'_toNat, BitVec.toNat_ushiftRight,
    Nat.shiftRight_eq_div_pow]
  simp
  omega

/-- The end bit of a frame is the last bit of its last byte (R110). -/
theorem endBit_of_bytes (b0 b1 b2 b3 b4 b5 : Byte) :
    (b0 ++ b1 ++ b2 ++ b3 ++ b4 ++ b5).extractLsb' 0 1 = 1#1 ↔ b5.getLsbD 0 = true := by
  rw [(extractLsb'_one_eq _ 0).2, BitVec.getLsbD_append, if_pos (by decide)]

/-- Settles O8: a token by `decodeToken_error`, a frame by the tests of its start and end bits in this order. -/
theorem decoderRejects : Obligations.DecoderRejects := by
  refine ⟨decodeToken_error, fun b e => decodeToken_error_only, fun b0 b1 b2 b3 b4 b5 => ?_, fun l h1 h4 h6 => ?_⟩
  · rw [ne_eq, ← startBits_of_bytes b0 b1 b2 b3 b4 b5, ← Bool.not_eq_true, ← endBit_of_bytes b0 b1 b2 b3 b4 b5]
    simp only [decode, decodeFrame]
    refine ⟨fun hs => if_pos hs, fun hs he => ?_, fun hs he => ?_⟩
    · rw [if_neg (not_not.mpr hs), if_pos he]
    · rw [if_neg (not_not.mpr hs), if_neg (not_not.mpr he)]
      exact ⟨_, rfl⟩
  · unfold decode
    split <;> simp_all

/-! ### The bytes of a frame -/

/-- The end byte of a frame holds its CRC in bits 7:1 and a 1 in bit 0 (R173). -/
theorem frameEnd_eq (crc : BitVec 7) : frameEnd crc = (crc.setWidth 8 <<< 1) ||| 1 := by
  revert crc
  decide

/-- The first byte of a frame holds the start bits 01 and the index (R110). -/
theorem frameStart_eq (idx : BitVec 6) : 0b01#2 ++ idx = 0x40#8 ||| idx.setWidth 8 := by
  revert idx
  decide

/-- The encoding of a frame with the CRC-7 of its first five bytes is the frame the block sends (R110, R173). -/
theorem encodeFrame_frameCrc (idx : BitVec 6) (arg : Word) :
    encodeFrame idx arg (frameCrc idx arg) = frameBytes idx arg := by
  generalize hcrc : frameCrc idx arg = crc
  simp only [encodeFrame, frameWordBytes, frameBytes, frameHeader, hcrc, List.cons_append, List.nil_append,
    List.cons.injEq, and_true, frameEnd]
  refine ⟨?_, ?_, ?_, ?_, ?_, ?_⟩
  · rw [← frameStart_eq]
    ext j hj
    simp
    grind
  all_goals
    ext j hj
    simp
    grind

/-- A well-formed frame row is encoded as the frame the block sends for its index and argument. -/
theorem encode_frameRow {s : State} {i : Instr} {idx : BitVec 6} {t : RespType} {arg : Word}
    (h : frameFields s i = some (idx, t, arg)) (hwf : i.wellFormed = true) : encode i = frameBytes idx arg := by
  have hrow : ∃ crc, encode i = encodeFrame idx arg crc ∧ crc = frameCrc idx arg := by
    cases i <;> cases h
    case sdFrame =>
      simp only [Instr.wellFormed, Bool.and_eq_true, beq_iff_eq] at hwf
      exact ⟨_, rfl, hwf.2⟩
    all_goals exact ⟨_, rfl, eq_of_beq hwf⟩
  obtain ⟨_, henc, rfl⟩ := hrow
  rw [henc, encodeFrame_frameCrc]

/-- Settles O9: `encode_frameRow`, and the frame's bytes by their definition but for the end byte. -/
theorem frameEncoding : Obligations.FrameEncoding := by
  intro s i idx t arg h hwf
  refine ⟨encode_frameRow h hwf, _, rfl, ?_⟩
  rw [← frameEnd_eq]
  rfl

/-! ### The step that runs what is decoded -/

/-- A step whose fetch gives bytes that decode runs the instruction. -/
theorem step_of_run {s t : State} {bytes : List Byte} {i : Instr} (hd : s.params.inDomain = true)
    (hf : fetch s = .run bytes t) (hi : decode bytes = .ok i) : step s = exec i t := by
  simp only [step, hd, hf, hi, if_true]

/-- Settles O3: each of the three items is fetched as its bytes. -/
theorem stepRunsDecoded : Obligations.StepRunsDecoded := by
  refine fun s i rest hd => ⟨fun addr v hq ha hi => ?_, fun w hq hi => ?_, fun b hq hi => ?_⟩
  · exact step_of_run hd (by simp [fetch, hq, ha]) hi
  · exact step_of_run hd (by simp [fetch, hq]) hi
  · exact step_of_run hd (by simp [fetch, hq]) hi

/-- The window begins at BLOCK_BASE (R32). -/
theorem windowOffset_base (p : Params) : windowOffset p p.blockBase = some 0 := by
  simp [windowOffset]

/-- A word of the table is laid out as a frame, a token or an OPCODE write (log 20). -/
theorem tableBytes_cases (nbits w : Nat) : (∃ f, tableBytes nbits w = frameWordBytes f) ∨
    (∃ b, tableBytes nbits w = [b]) ∨ ∃ v, tableBytes nbits w = wordBytes v := by
  unfold tableBytes
  split
  · exact .inl ⟨_, rfl⟩
  · split
    · exact .inr (.inl ⟨_, rfl⟩)
    · exact .inr (.inr ⟨_, rfl⟩)

/-- The word placed for the next step is fetched as the bytes the table lays it out in (log 2, 20). -/
theorem fetch_withFetchWord (s : State) (nbits w : Nat) :
    fetch (s.withFetchWord nbits w) = .run (tableBytes nbits w) s := by
  unfold State.withFetchWord issue
  obtain ⟨f, h⟩ | ⟨b, h⟩ | ⟨v, h⟩ := tableBytes_cases nbits w <;> rw [h]
  · simp only [frameWordBytes, fetch, frame_of_bytes]
  · simp only [fetch]
  · simp only [wordBytes, fetch, word_of_bytes, windowOffset_base, and_self, if_true]

/-- Settles O4. -/
theorem fetchWordRuns : Obligations.FetchWordRuns := by
  intro s nbits w i hd hi
  refine step_of_run (by exact hd) (fetch_withFetchWord s nbits w) ?_
  unfold decodeTableWord at hi
  cases hdec : decode (tableBytes nbits w) with
  | ok j =>
    rw [hdec] at hi
    cases hi
    rfl
  | error e =>
    rw [hdec] at hi
    cases hi

/-- Settles O5: the words are decoded by evaluation. -/
theorem specWordsDecode : Obligations.SpecWordsDecode := by
  refine ⟨rfl, rfl, rfl, rfl, rfl, rfl, rfl, rfl, rfl, rfl, rfl, rfl, rfl, rfl, rfl, rfl, rfl, rfl, rfl, rfl, rfl, rfl⟩

end Sys2Proof.Proofs
end

section
/-! PROOFS. What an Engine step can do, said once: it goes on, or it finishes with or without an error, and in each case
which fields it may have changed and where (R11, R208, R232, R240, R270, R318, R319). -/
namespace Sys2Proof.Proofs
open Sys2Proof.Machine Sys2Proof.Laws

/-! ### The three ways -/

/-- The moves of CARD_STATE that a good response allows at INIT's trailing byte (R290). -/
inductive CardForward : Cont → CardState → Prop
  | goIdle (tail : Option Word) (p : Pending) : CardForward (.initTrail .goIdle .ok 0x01 tail p) .resetAcknowledged
  | ifCond (v : Word) (p : Pending) (h : v.extractLsb' 0 12 = 0x1AA) :
    CardForward (.initTrail .ifCond .ok 0x01 (some v) p) .voltageNegotiated
  | blockLen (tail : Option Word) (p : Pending) : CardForward (.initTrail .blockLen .ok 0x00 tail p) .ready

/-- The program points whose step may write DATA (R152, R153, R232, R236). -/
def Cont.mayWriteData (c : Cont) : Prop :=
  c = .xferByte ∨ (∃ got, c = .xferWord 3 got) ∨ (∃ k, c = .tokenWait k) ∨ ∃ hi, c = .readCrcLo hi

/-- What follows the exchange of a running operation in state q, or its set-up where it has none: every field not named
here is q's. -/
inductive Absorbed (q : State) : State → Prop
  /-- The operation goes on. -/
  | goesOn {c : Cont} {crc16 : BitVec 16} {mem : Mem} {engStores seenStores : List Nat} {draws : Nat} {dresp : Byte}
      {init : InitRegs} {xfer poll width32 : Bool} {cardState : CardState} (hc : c ≠ .idle)
      (hmem : mem = q.mem ∨ ∃ i rx, q.cont = .readData i ∧ mem = q.mem.write (q.lat.byteAddr i) rx)
      (hdresp : dresp = q.dresp ∨ ∃ k, q.cont = .writeResp k)
      (hcard : cardState = q.status.cardState ∨ CardForward q.cont cardState) (hdraws : q.draws ≤ draws) :
      Absorbed q { q with
        cont := c, crc16 := crc16, mem := mem, engStores := engStores, seenStores := seenStores, draws := draws
        dresp := dresp, init := init
        status := { q.status with xfer := xfer, poll := poll, cardState := cardState }
        bus := { q.bus with width32 := width32 } }
  /-- The operation finishes (R318). -/
  | finished {resp0 : Byte} {resp1 data : Word} {init : InitRegs} {xfer poll : Bool} {cardState : CardState}
      (hdata : data = q.data ∨ Cont.mayWriteData q.cont)
      (hcard : cardState = q.status.cardState ∨ CardForward q.cont cardState) :
      Absorbed q (finishOk { q with
        resp0 := resp0, resp1 := resp1, data := data, init := init
        status := { q.status with xfer := xfer, poll := poll, cardState := cardState } })
  /-- The operation fails (R319), and INIT has disabled the bus first (R282). -/
  | failed {code : ErrCode} {resp0 dresp : Byte} {resp1 data : Word} {init : InitRegs} {xfer poll : Bool}
      {cardState : CardState} {bus : BusCtl} {wire : List WireEvent} (hcode : code ≠ .none)
      (hdata : data = q.data ∨ Cont.mayWriteData q.cont)
      (hbus : (bus = q.bus ∧ wire = q.wire ∧ cardState = q.status.cardState) ∨
        (q.cont.runsInit = true ∧ bus = q.bus.only false ∧ wire = q.wire ++ q.releaseEvents ∧
          cardState = .uninitialized)) :
      Absorbed q (finishErr code { q with
        resp0 := resp0, resp1 := resp1, data := data, dresp := dresp, init := init, bus := bus, wire := wire
        status := { q.status with xfer := xfer, poll := poll, cardState := cardState } })

/-- A step that only moves the sequencer goes on. -/
theorem Absorbed.move {q : State} {c : Cont} (hc : c ≠ .idle) : Absorbed q { q with cont := c } :=
  .goesOn hc (.inl rfl) (.inl rfl) (.inl rfl) le_rfl

/-- INIT's counters and POLL do not matter to what follows. -/
theorem Absorbed.of_init_poll {q t : State} {i : InitRegs} {p : Bool}
    (h : Absorbed { q with init := i, status := { q.status with poll := p } } t) : Absorbed q t := by
  cases h with
  | goesOn hc hmem hdresp hcard hdraws => exact .goesOn hc hmem hdresp hcard hdraws
  | finished hdata hcard => exact .finished hdata hcard
  | failed hcode hdata hbus => exact .failed hcode hdata hbus

/-! ### The return of a transaction and the busy poll -/

/-- A transaction returns: CMD_SEND finishes, INIT goes on with its trailing byte (R208, R273). -/
theorem txnReturn_absorbed (c : Caller) (st : TxnStatus) (r1 : Byte) (tail : Option Word) (q : State) :
    Absorbed q (txnReturn c st r1 tail q) := by
  cases c with
  | cmdSend =>
    cases st with
    | ok => exact .finished (.inl rfl) (.inl rfl)
    | timeout | rerror | busyTo => exact .failed (by decide) (.inl rfl) (.inl ⟨rfl, rfl, rfl⟩)
  | init cmd pend => exact .move (by simp)

/-- After R1 the transaction returns or goes on (R205 to R207). -/
theorem txnAfterR1_absorbed (c : Caller) (r1 : Byte) (q : State) : Absorbed q (txnAfterR1 c r1 q) := by
  unfold txnAfterR1
  split
  · exact txnReturn_absorbed ..
  · split
    · exact txnReturn_absorbed ..
    all_goals exact .move (by simp)

/-- The end of a busy poll (R250 to R252). -/
theorem busyReturn_absorbed (u : BusyUser) (ready : Bool) (q : State) : Absorbed q (busyReturn u ready q) := by
  cases u with
  | txn c r1 => exact .of_init_poll (i := q.init) (p := false) (txnReturn_absorbed ..)
  | writeBlock | stopTran | busyWait =>
    cases ready with
    | true => exact .finished (.inl rfl) (.inl rfl)
    | false => exact .failed (by decide) (.inl rfl) (.inl ⟨rfl, rfl, rfl⟩)

/-! ### INIT -/

/-- INIT's failure (R282). -/
theorem initFail_absorbed {code : ErrCode} (hcode : code ≠ .none) (pend : Pending) {q : State}
    (hi : q.cont.runsInit = true) : Absorbed q (initFail code pend q) := by
  unfold initFail
  rw [resetBus_eq]
  exact .failed hcode (.inl rfl) (.inr ⟨hi, rfl, rfl, rfl⟩)

/-- The end of an attempt of INIT (R275 to R281). -/
theorem initRetry_absorbed (limit : Nat) {code : ErrCode} (hcode : code ≠ .none) (cmd : InitCmd) (pend : Pending)
    {q : State} (hi : q.cont.runsInit = true) : Absorbed q (initRetry limit code cmd pend q) := by
  unfold initRetry
  split
  · exact initFail_absorbed hcode pend hi
  · exact .move (by simp)

/-- The tail that echoes the check pattern is a word with these bits (R276). -/
theorem echoMatches_iff (tail : Option Word) :
    echoMatches tail = true ↔ ∃ v, tail = some v ∧ v.extractLsb' 0 12 = 0x1AA := by
  cases tail <;> simp [echoMatches]

/-- What a phase of INIT concludes (R275 to R283). -/
theorem initConclude_absorbed {cmd : InitCmd} {st : TxnStatus} {r1 : Byte} {tail : Option Word} {pend : Pending}
    {q : State} (hc : q.cont = .initTrail cmd st r1 tail pend) :
    Absorbed q (initConclude cmd st r1 tail pend q) := by
  have hi : q.cont.runsInit = true := by simp [hc]
  have enter : ∀ cmd, Absorbed q (initEnter cmd pend q) :=
    fun cmd => .goesOn (by simp) (.inl rfl) (.inl rfl) (.inl rfl) le_rfl
  have advance : ∀ {cmd' card}, CardForward q.cont card → Absorbed q (initEnter cmd' pend (setCardState card q)) :=
    fun hcard => .goesOn (by simp) (.inl rfl) (.inl rfl) (.inr hcard) le_rfl
  cases cmd <;> simp only [initConclude]
  case goIdle =>
    generalize (if st = .timeout then q.init.absent + 1 else 0) = absent
    have retry : ∀ {t}, Absorbed { q with init := { q.init with absent := absent } } t → Absorbed q t :=
      .of_init_poll (p := q.status.poll)
    split
    · obtain ⟨rfl, rfl⟩ := ‹st = .ok ∧ r1 = 0x01›
      exact advance (hc ▸ .goIdle tail pend)
    · split
      · exact retry (initFail_absorbed (by decide) pend hi)
      · exact retry (initRetry_absorbed _ (by decide) _ pend hi)
  case ifCond =>
    split
    · obtain ⟨rfl, rfl, hecho⟩ := ‹st = .ok ∧ r1 = 0x01 ∧ _›
      obtain ⟨v, rfl, hv⟩ := (echoMatches_iff tail).mp hecho
      exact advance (hc ▸ .ifCond v pend hv)
    · exact initRetry_absorbed _ (by decide) _ pend hi
  case crcOn =>
    split
    · exact enter _
    · exact initFail_absorbed (by decide) pend hi
  case readOcr =>
    split
    · exact enter _
    · exact initRetry_absorbed _ (by decide) _ pend hi
  case appCmd | opCond =>
    split
    · exact .move (by simp)
    · exact initRetry_absorbed _ (by decide) _ pend hi
  case blockLen =>
    split
    · obtain ⟨rfl, rfl⟩ := ‹st = .ok ∧ r1 = 0x00›
      exact .finished (.inl rfl) (.inr (hc ▸ .blockLen tail pend))
    · exact initRetry_absorbed _ (by decide) _ pend hi

/-! ### One step -/

/-- After a data byte the transfer goes on (R232, R240). -/
theorem afterDataByte_absorbed {i : Fin 512} {more : Fin 512 → Cont} {next : Cont} {q : State} {crc16 : BitVec 16}
    {mem : Mem} {engStores seenStores : List Nat} {draws : Nat} (hmore : ∀ j, more j ≠ .idle) (hnext : next ≠ .idle)
    (hmem : mem = q.mem ∨ ∃ i rx, q.cont = .readData i ∧ mem = q.mem.write (q.lat.byteAddr i) rx)
    (hdraws : q.draws ≤ draws) :
    Absorbed q (afterDataByte i more next { q with
      crc16 := crc16, mem := mem, engStores := engStores, seenStores := seenStores, draws := draws }) := by
  unfold afterDataByte
  split
  · exact .goesOn (hmore _) hmem (.inl rfl) (.inl rfl) hdraws
  · exact .goesOn hnext hmem (.inl rfl) (.inl rfl) hdraws

/-- What the rule of the program point does after its exchange. -/
theorem engineAbsorb_absorbed (tx rx : Byte) {q : State} (hb : q.cont ≠ .idle) :
    Absorbed q (engineAbsorb tx rx q) := by
  cases hc : q.cont <;> simp only [engineAbsorb, hc]
  case idle => exact absurd hc hb
  case stuff | readCrcHi | writeToken | writeCrcHi | writeCrcLo | stopToken | stopGap => exact .move (by simp)
  case speedUp => exact .goesOn hb (.inl rfl) (.inl rfl) (.inl rfl) le_rfl
  case xferByte => exact .finished (.inr (.inl hc)) (.inl rfl)
  case initTrail => exact initConclude_absorbed hc
  case idleClocks =>
    split
    · exact .finished (.inl rfl) (.inl rfl)
    · exact .move (by simp)
  case xferWord k got =>
    split
    · exact .move (by simp)
    · obtain rfl : k = 3 := by omega
      exact .finished (.inr (.inr (.inl ⟨got, hc⟩))) (.inl rfl)
  case frame =>
    split
    · exact .move (by simp)
    · split <;> exact .move (by simp)
  case r1Poll =>
    split
    · exact txnAfterR1_absorbed ..
    · split
      · exact txnReturn_absorbed ..
      · exact .move (by simp)
  case trailing =>
    split
    · exact txnReturn_absorbed ..
    · split
      · exact .move (by simp)
      · exact txnReturn_absorbed ..
  case tokenWait k =>
    have fails : ∀ {code b}, code ≠ .none → Absorbed q (tokenFail code b q) := fun hcode =>
      .failed hcode (.inr (.inr (.inr (.inl ⟨k, hc⟩)))) (.inl ⟨rfl, rfl, rfl⟩)
    split
    · exact .move (by simp)
    · split
      · exact fails (by decide)
      · split
        · exact fails (by decide)
        · exact .move (by simp)
  case readData i =>
    exact afterDataByte_absorbed (by simp) (by simp) (.inr ⟨i, rx, hc, rfl⟩) le_rfl
  case writeData i =>
    have hdraws : q.draws ≤ if q.lat.byteAddr i ∈ q.unordered then q.draws + 1 else q.draws := by split <;> omega
    rw [countEngineDraw_eq]
    exact afterDataByte_absorbed (mem := q.mem) (by simp) (by simp) (.inl rfl) hdraws
  case readCrcLo hi =>
    have hdata : Cont.mayWriteData q.cont := .inr (.inr (.inr ⟨hi, hc⟩))
    split
    · exact .finished (.inr hdata) (.inl rfl)
    · rw [← hc]
      exact .failed (code := .dataCrc) (by decide) (.inr hdata) (.inl ⟨rfl, rfl, rfl⟩)
  case writeResp k =>
    split
    · split
      · exact .goesOn (by simp) (.inl rfl) (.inr ⟨k, hc⟩) (.inl rfl) le_rfl
      · rw [← hc]
        exact .failed (code := .writeRejected) (by decide) (.inl rfl) (.inl ⟨rfl, rfl, rfl⟩)
    · split
      · rw [← hc]
        exact .failed (code := .drespTimeout) (by decide) (.inl rfl) (.inl ⟨rfl, rfl, rfl⟩)
      · exact .move (by simp)
  case busy =>
    split
    · exact busyReturn_absorbed ..
    · split
      · exact busyReturn_absorbed ..
      · exact .move (by simp)
  case initClocks =>
    split
    · exact .goesOn (by simp) (.inl rfl) (.inl rfl) (.inl rfl) le_rfl
    · exact .move (by simp)

/-- What a step with no exchange does (R151, R279). -/
theorem engineQuiet_absorbed {q : State} (hb : q.cont ≠ .idle) : Absorbed q (engineQuiet q) := by
  unfold engineQuiet
  split
  · exact .finished (.inl rfl) (.inl rfl)
  · exact .goesOn (by simp) (.inl rfl) (.inl rfl) (.inl rfl) le_rfl
  · exact .goesOn hb (.inl rfl) (.inl rfl) (.inl rfl) le_rfl

/-- A running operation's step: the set-up, an exchange where the program point has one, and what follows. -/
theorem engineStep_absorbed {s t : State} (hb : s.cont ≠ .idle) (h : engineStep s = .next t) :
    (engineTx (enginePrepare s) = none ∧ Absorbed (enginePrepare s) t) ∨
    ∃ tx, engineTx (enginePrepare s) = some tx ∧ Absorbed (exchange tx (enginePrepare s)).2 t := by
  obtain ⟨hc, -⟩ | ⟨-, htx, rfl⟩ | ⟨-, tx, htx, -, -, rfl⟩ := engineStep_cases h
  · exact absurd hc hb
  · exact .inl ⟨htx, engineQuiet_absorbed (by simpa using hb)⟩
  · exact .inr ⟨tx, htx, engineAbsorb_absorbed _ _ (by simpa using hb)⟩

end Sys2Proof.Proofs
end

section
/-! PROOFS. The invariant through one Engine step: what holds once the step's set-up and its exchange have run, and
that every program point then goes on or finishes in a state of the invariant. -/
namespace Sys2Proof.Proofs
open Sys2Proof.Machine Sys2Proof.Laws

/-! ### After the set-up and the exchange -/

/-- The program point once the set-up of its step has run: INIT's first byte has started it, and a frame's first byte
has started its transaction (log 7). -/
def Cont.setUp : Cont → Cont
  | .initClocks 0 => .initClocks 1
  | .frame c 0 => .frame c 1
  | c => c

/-- An Engine step of s with its set-up and its exchange done, in state q: what the invariant says of the program point
after the set-up. INIT's trailing byte alone has released chip-select, and INIT's phase f has no exchange. -/
structure Ready (s q : State) : Prop where
  mid : Mid s q
  xfer : q.status.xfer = s.cont.ownsBuffer
  poll : q.status.poll = true → ∃ u k, s.cont = .busy u k
  width : q.bus.width32 = true → s.cont.movesWords = true
  phase : q.init.phase ≠ .idle → s.cont.runsInit = true
  stage : ∀ c, (Cont.setUp s.cont).stage? = some c → q.status.cardState = c
  clock : ∀ b, (Cont.setUp s.cont).clock? = some b → q.bus.speedOp = b ∧ (b = true → q.bus.level = q.lat.level)
  crc : ∀ c, (Cont.setUp s.cont).started? = some c → q.crc7 = frameCrc (c.idx q.lat) (c.arg q.lat)
  cs : (Cont.setUp s.cont).needsCs = true → (∀ cmd st r1 tail p, s.cont ≠ .initTrail cmd st r1 tail p) → q.bus.cs = true

/-- A set-up that touches WIDTH32 and POLL alone, or INIT's release of chip-select, keeps the invariant's clauses. -/
theorem ready_of_inv {s q : State} (h : s.Inv) (hs : Cont.setUp s.cont = s.cont) (hm : Mid s q)
    (hinit : q.init = s.init) (hcrc : q.crc7 = s.crc7)
    (hstatus : q.status = { s.status with poll := q.status.poll })
    (hbus : q.bus = { s.bus with cs := q.bus.cs, width32 := q.bus.width32 })
    (hpoll : q.status.poll = true → ∃ u k, s.cont = .busy u k)
    (hwidth : q.bus.width32 = true → s.cont.movesWords = true)
    (hcs : (∀ cmd st r1 tail p, s.cont ≠ .initTrail cmd st r1 tail p) → q.bus.cs = s.bus.cs) : Ready s q where
  mid := hm
  xfer := by rw [hstatus]; exact h.xferOwns
  poll := hpoll
  width := hwidth
  phase := by rw [hinit]; exact h.phaseInit
  stage := by rw [hs, hstatus]; exact h.stage
  clock := by rw [hs, hbus, hm.lat]; exact h.clock
  crc := by rw [hs, hcrc, hm.lat]; exact h.frameCrc
  cs hn ht := (hcs ht).trans (h.csHeld (hs ▸ hn))

/-- While an operation runs, POLL tells the busy poll. -/
theorem inv_poll {s : State} (h : s.Inv) (hp : s.status.poll = true) : ∃ u k, s.cont = .busy u k :=
  (h.pollBusy hp).imp fun _ ⟨k, hk⟩ => ⟨k + 1, hk⟩

/-- The set-up of a transaction: its caller's card state and clock are those of its frame, CRC7 the frame's CRC. -/
theorem ready_txnStart {s : State} {c : Caller} (h : s.Inv) (hc : s.cont = .frame c 0) (hm : Mid s (txnStart c s)) :
    Ready s (txnStart c s) := by
  have hst := h.stage
  have hck := h.clock
  have hph := h.phaseInit
  have hpoll := inv_poll h
  rw [hc] at hst hck hph
  rw [txnStart_eq] at hm ⊢
  exact {
    mid := hm
    xfer := h.xferOwns
    poll := hpoll
    width := h.widthWord
    phase := by
      rw [hc]
      cases c with
      | cmdSend => exact hph
      | init cmd p => exact fun _ => rfl
    stage := by rw [hc]; exact hst
    clock := by rw [hc]; exact hck
    crc := by rw [hc]; rintro _ ⟨⟩; rfl
    cs := fun _ _ => rfl }

/-- INIT's start. -/
theorem ready_initStart {s : State} (h : s.Inv) (hc : s.cont = .initClocks 0) (hm : Mid s (initStart s)) :
    Ready s (initStart s) where
  mid := hm
  xfer := by simpa [initStart] using h.xferOwns
  poll hp := inv_poll h (by simpa [initStart] using hp)
  width hw := by simp [initStart] at hw
  phase _ := by simp [hc]
  stage c hst := by simpa [hc, Cont.setUp, initStart] using hst
  clock b hck := by
    obtain rfl : false = b := by simpa [hc, Cont.setUp] using hck
    simp [initStart]
  crc c hcrc := by simp [hc, Cont.setUp] at hcrc
  cs hn := by simp [hc, Cont.setUp] at hn

/-- The set-up of a step. -/
theorem ready_prepare {s : State} (h : s.Inv) (hb : s.cont ≠ .idle) (hsp : ∀ p, s.cont ≠ .speedUp p) :
    Ready s (enginePrepare s) := by
  have hm := mid_prepare h hb
  have hpoll := inv_poll h
  have plain : Cont.setUp s.cont = s.cont → enginePrepare s = s → Ready s (enginePrepare s) := fun hs hp => by
    rw [hp] at hm ⊢
    exact ready_of_inv h hs hm rfl rfl rfl rfl hpoll h.widthWord fun _ => rfl
  cases hc : s.cont
  case idle => exact absurd hc hb
  case speedUp p => exact absurd hc (hsp p)
  case frame c k =>
    by_cases hk : k = 0
    · subst hk
      have hp : enginePrepare s = txnStart c s := by simp [enginePrepare, hc]
      rw [hp] at hm ⊢
      exact ready_txnStart h hc hm
    · refine plain ?_ (by simp [enginePrepare, hc, hk])
      obtain ⟨j, rfl⟩ := Fin.exists_succ_eq.mpr hk
      rw [hc]
      rfl
  case initClocks k =>
    cases k with
    | zero =>
      have hp : enginePrepare s = initStart s := by simp [enginePrepare, hc]
      rw [hp] at hm ⊢
      exact ready_initStart h hc hm
    | succ k => exact plain (by rw [hc]; rfl) (by simp [enginePrepare, hc])
  case initTrail cmd st r1 tail p =>
    have hp : enginePrepare s = setCs false s := by simp [enginePrepare, hc]
    rw [hp, setCs_false] at hm ⊢
    exact ready_of_inv h (by rw [hc]; rfl) hm rfl rfl rfl rfl hpoll h.widthWord fun ht => (ht cmd st r1 tail p hc).elim
  case xferByte =>
    have hp : enginePrepare s = { s with bus := { s.bus with width32 := false } } := by simp [enginePrepare, hc]
    rw [hp] at hm ⊢
    exact ready_of_inv h (by rw [hc]; rfl) hm rfl rfl rfl rfl hpoll nofun fun _ => rfl
  case xferWord k got =>
    have hp : ∃ w, enginePrepare s = { s with bus := { s.bus with width32 := w } } := by
      by_cases hk : k = 0
      · exact ⟨true, by simp [enginePrepare, hc, hk]⟩
      · exact ⟨s.bus.width32, by simp only [enginePrepare, hc, hk, if_false]; rw [← hc]⟩
    obtain ⟨w, hp⟩ := hp
    rw [hp] at hm ⊢
    exact ready_of_inv h (by rw [hc]; rfl) hm rfl rfl rfl rfl hpoll (fun _ => by rw [hc]; rfl) fun _ => rfl
  case readData i =>
    obtain ⟨w, hp⟩ := prepare_dataByte (.inl hc)
    rw [hp] at hm ⊢
    exact ready_of_inv h (by rw [hc]; rfl) hm rfl rfl rfl rfl hpoll (fun _ => by rw [hc]; rfl) fun _ => rfl
  case writeData i =>
    obtain ⟨w, hp⟩ := prepare_dataByte (.inr hc)
    rw [hp] at hm ⊢
    exact ready_of_inv h (by rw [hc]; rfl) hm rfl rfl rfl rfl hpoll (fun _ => by rw [hc]; rfl) fun _ => rfl
  case busy u k =>
    have hp : enginePrepare s = { s with status := { s.status with poll := true } } := by simp [enginePrepare, hc]
    rw [hp] at hm ⊢
    exact ready_of_inv h (by rw [hc]; rfl) hm rfl rfl rfl rfl (fun _ => ⟨u, k, hc⟩) h.widthWord fun _ => rfl
  all_goals exact plain (by rw [hc]; rfl) (by simp [enginePrepare, hc])

/-- The exchange of a step. -/
theorem Ready.exchange {s q : State} (r : Ready s q) (tx : Byte) : Ready s (exchange tx q).2 where
  mid := mid_exchange tx r.mid
  xfer := by simpa using r.xfer
  poll := by simpa using r.poll
  width := by simpa using r.width
  phase := by simpa using r.phase
  stage := by simpa using r.stage
  clock := by simpa using r.clock
  crc := by simpa using r.crc
  cs := by simpa using r.cs

/-- CRC16, DRESP, INIT's attempt count and the counter of draws do not matter to the invariant's clauses. -/
theorem Ready.of_registers {s q : State} (r : Ready s q) (crc16 : BitVec 16) (dresp : Byte) (attempt draws : Nat) :
    Ready s { q with
      crc16 := crc16, dresp := dresp, draws := draws, init := { q.init with attempt := attempt } } := by
  obtain ⟨⟨b1, b2, b3, b4, b5, b6, b7⟩, m2, m3, m4, m5, m6, m7, m8⟩ := r.mid
  exact ⟨⟨⟨b1, b2, b3, b4, b5, b6, b7⟩, m2, m3, m4, m5, m6, m7, m8⟩, r.xfer, r.poll, r.width, r.phase, r.stage, r.clock,
    r.crc, r.cs⟩

/-! ### Going on and finishing -/

/-- A set-up frame is past its first byte. -/
theorem setUp_frame (c : Caller) (k : Fin 6) : ∃ j : Fin 5, Cont.setUp (.frame c k) = .frame c j.succ := by
  by_cases hk : k = 0
  · exact ⟨0, by rw [hk]; rfl⟩
  · obtain ⟨j, rfl⟩ := Fin.exists_succ_eq.mpr hk
    exact ⟨j, rfl⟩

/-- Set-up idle clocks are past their first byte. -/
theorem setUp_initClocks (k : Nat) : ∃ j, Cont.setUp (.initClocks k) = .initClocks (j + 1) := by
  cases k with
  | zero => exact ⟨0, rfl⟩
  | succ j => exact ⟨j, rfl⟩

/-- The program point c' may follow c within one operation: what the invariant says of the one, after its set-up, it
says of the other. -/
structure Follows (p : Params) (c c' : Cont) : Prop where
  own : c'.ownsBuffer = c.ownsBuffer
  poll : ∀ u k, c = .busy u k → ∃ u' k', c' = .busy u' (k' + 1)
  width : c.movesWords = true → c'.movesWords = true
  run : c'.runsInit = c.runsInit
  stage : c'.stage? = (Cont.setUp c).stage?
  clock : c'.clock? = (Cont.setUp c).clock?
  started : c'.started? = none ∨ c'.started? = (Cont.setUp c).started?
  noTrail : ∀ cmd st r1 tail pend, c' ≠ .initTrail cmd st r1 tail pend
  cs : c'.needsCs = true → (Cont.setUp c).needsCs = true ∧ ∀ cmd st r1 tail pend, c ≠ .initTrail cmd st r1 tail pend
  bounds : c'.inBounds p = true

/-- The step goes on at a program point that may follow. -/
theorem Ready.inv_move {s q : State} {c : Cont} (h : s.Inv) (r : Ready s q) (hb : s.cont ≠ .idle)
    (f : Follows s.params s.cont c) : State.Inv { q with cont := c } := by
  obtain ⟨⟨b1, b2, b3, b4, b5, b6, b7⟩, herr, hcode, hdone, hbus, hlat, -, hparams⟩ := r.mid
  refine Laws.inv_move h hb ⟨b1, b2, b3, b4, b5, b6, b7⟩ herr hcode hdone hbus (r.xfer.trans f.own.symm) ?_
    (fun hw => f.width (r.width hw)) (fun hp => f.run.trans (r.phase hp)) hlat f.run (by rw [f.stage]; exact r.stage)
    (by rw [f.clock]; exact r.clock) ?_ hparams (fun ho => f.own ▸ ho)
    (fun cmd st r1 tail p ht => (f.noTrail cmd st r1 tail p ht).elim) (fun hn => r.cs (f.cs hn).1 (f.cs hn).2)
    (by rw [hparams]; exact f.bounds)
  · intro hp
    obtain ⟨u, k, hc⟩ := r.poll hp
    exact f.poll u k hc
  · intro caller hcaller
    obtain hnone | hsame := f.started
    · exact absurd (hnone.symm.trans hcaller) nofun
    · exact r.crc caller (hsame.symm.trans hcaller)

/-- The operation is not INIT: PHASE is 0. -/
theorem Ready.phase_idle {s q : State} (r : Ready s q) (hi : s.cont.runsInit = false) : q.init.phase = .idle := by
  by_contra hp
  exact absurd (r.phase hp) (by simp [hi])

/-- An operation other than INIT that finishes (R318). -/
theorem Ready.inv_finishOk {s q : State} (r : Ready s q) (hi : s.cont.runsInit = false) (data : Word) :
    (finishOk { q with data := data }).Inv := by
  obtain ⟨b1, b2, b3, b4, b5, b6, b7⟩ := r.mid.base
  exact Laws.inv_finishOk ⟨b1, b2, b3, b4, b5, b6, b7⟩ (r.phase_idle hi)

/-- An operation other than INIT that fails (R319). -/
theorem Ready.inv_finishErr {s q : State} {code : ErrCode} (r : Ready s q) (hcode : code ≠ .none)
    (hi : s.cont.runsInit = false) (data : Word) (dresp : Byte) (xfer : Bool) :
    (finishErr code { q with data := data, dresp := dresp, status := { q.status with xfer := xfer } }).Inv := by
  obtain ⟨b1, b2, b3, b4, b5, b6, b7⟩ := r.mid.base
  exact Laws.inv_finishErr hcode ⟨b1, b2, b3, b4, b5, b6, b7⟩ (r.phase_idle hi)

/-- The busy poll alone has POLL set. -/
theorem Ready.poll_false {s q : State} (r : Ready s q) (h : ∀ u k, s.cont ≠ .busy u k) : q.status.poll = false := by
  by_contra hp
  obtain ⟨u, k, hc⟩ := r.poll (by simpa using hp)
  exact h u k hc

/-- Only where words move WIDTH32 is set. -/
theorem Ready.width_false {s q : State} (r : Ready s q) (h : s.cont.movesWords = false) : q.bus.width32 = false := by
  by_contra hw
  exact absurd (r.width (by simpa using hw)) (by simp [h])

/-- A transaction returns from its polls or from the bytes after R1 (R208, R273). -/
theorem Ready.inv_txnReturn {s q : State} {c : Caller} {st : TxnStatus} {r1 : Byte} {tail : Option Word} (h : s.Inv)
    (r : Ready s q) (hc : (∃ k, s.cont = .r1Poll c k) ∨ ∃ r' k g, s.cont = .trailing c r' k g) :
    (txnReturn c st r1 tail q).Inv := by
  have hxfer := r.xfer
  have hphase := r.phase
  have hstage := r.stage
  have hclock := r.clock
  have hcrc := r.crc
  have hcs := r.cs
  obtain ⟨k, hc⟩ | ⟨r', k, g, hc⟩ := hc
  all_goals
    rw [hc] at hxfer hphase hstage hclock hcrc hcs
    exact Laws.inv_txnReturn h (by simp [hc]) r.mid hxfer (r.poll_false (by simp [hc])) (r.width_false (by simp [hc]))
      (by rw [hc]; rfl) (by rw [hc]; rfl) hstage hclock (hcrc _ rfl) hphase (hcs rfl nofun)

/-- R1 is followed by the return or by what the response type asks for (R205 to R207). -/
theorem Ready.inv_txnAfterR1 {s q : State} {c : Caller} {r1 : Byte} {k : Nat} (h : s.Inv) (r : Ready s q)
    (hc : s.cont = .r1Poll c k) : (txnAfterR1 c r1 q).Inv := by
  have hb : s.cont ≠ .idle := by simp [hc]
  have hbusy : 0 < busyBound s.params := by
    have hdom := dom_of_inDomain h.domain
    exact Nat.add_pos_left hdom.bf _
  unfold txnAfterR1
  split
  · exact r.inv_txnReturn h (.inl ⟨k, hc⟩)
  · split
    · exact r.inv_txnReturn h (.inl ⟨k, hc⟩)
    all_goals exact r.inv_move h hb (by constructor <;> simp [hc, Cont.setUp, hbusy])

/-- The busy poll ends (R250). -/
theorem Ready.inv_busyReturn {s q : State} {u : BusyUser} {k : Nat} {ready : Bool} (h : s.Inv) (r : Ready s q)
    (hc : s.cont = .busy u k) : (busyReturn u ready q).Inv := by
  have hs : Cont.setUp s.cont = s.cont := by rw [hc]; rfl
  have hstage := r.stage
  have hclock := r.clock
  have hcrc := r.crc
  have hcs := r.cs
  rw [hs] at hstage hclock hcrc hcs
  exact Laws.inv_busyReturn h hc r.mid (r.xfer.trans (by simp [hc])) (r.width_false (by simp [hc])) hstage hclock hcrc
    r.phase (hcs (by simp [hc]) (by simp [hc]))

/-- A phase of INIT concludes (R275 to R281). -/
theorem Ready.inv_initConclude {s q : State} {cmd : InitCmd} {st : TxnStatus} {r1 : Byte} {tail : Option Word}
    {pend : Pending} (h : s.Inv) (r : Ready s q) (hc : s.cont = .initTrail cmd st r1 tail pend) :
    (initConclude cmd st r1 tail pend q).Inv := by
  have hxfer := r.xfer
  have hstage := r.stage
  have hclock := r.clock
  rw [hc] at hxfer hstage hclock
  exact Laws.inv_initConclude h r.mid hc hxfer (r.poll_false (by simp [hc])) (r.width_false (by simp [hc]))
    (hstage _ rfl) (hclock _ rfl)

/-- A sent data byte: the next one, or the buffer is released (R240). -/
theorem Ready.inv_writeData {s q : State} {i : Fin 512} (h : s.Inv) (r : Ready s q) (hc : s.cont = .writeData i) :
    (afterDataByte i .writeData .writeCrcHi q).Inv := by
  have hb : s.cont ≠ .idle := by simp [hc]
  have hcs := r.cs
  rw [hc] at hcs
  unfold afterDataByte
  split
  · exact r.inv_move h hb (by constructor <;> simp [hc, Cont.setUp])
  · obtain ⟨⟨b1, b2, b3, b4, b5, b6, b7⟩, herr, hcode, hdone, hbus, hlat, -, hparams⟩ := r.mid
    refine Laws.inv_move h hb ⟨b1, b2, b3, b4, b5, b6, b7⟩ herr hcode hdone hbus rfl ?_ nofun ?_ hlat ?_
      nofun nofun nofun
      hparams nofun nofun (fun _ => hcs rfl nofun) rfl
    · simp [releaseBuffer, r.poll_false (by simp [hc])]
    · simp [releaseBuffer, r.phase_idle (by simp [hc])]
    · simp [hc]

/-! ### One step -/

/-- INIT's phase f raises the clock and goes on to CMD58 (R279). -/
theorem inv_speedUp {s : State} {p : Pending} (h : s.Inv) (hc : s.cont = .speedUp p) :
    (initEnter .readOcr p (enginePrepare s)).Inv := by
  have hb : s.cont ≠ .idle := by simp [hc]
  have hxfer := h.xferOwns
  have hpoll := h.pollBusy
  have hwidth := h.widthWord
  have hstage := h.stage
  have hm := mid_prepare h hb
  simp only [hc] at hxfer hpoll hwidth hstage
  simp only [enginePrepare, hc] at hm ⊢
  obtain ⟨⟨b1, b2, b3, b4, b5, b6, b7⟩, herr, hcode, hdone, hbus, hlat, -, hparams⟩ := hm
  refine Laws.inv_move h hb ⟨b1, b2, b3, b4, b5, b6, b7⟩ herr hcode hdone hbus hxfer ?_ ?_ ?_ hlat ?_ ?_ ?_ nofun
    hparams nofun nofun nofun rfl
  all_goals simp_all [initEnter, Caller.stage?, Caller.clock?, InitCmd.stage, InitCmd.fastClock, Caller.isInit]

/-- What the rule of the program point does after its exchange keeps the invariant. -/
theorem inv_engineAbsorb {s q : State} (tx rx : Byte) (h : s.Inv) (r : Ready s q) (hb : s.cont ≠ .idle)
    (hsp : ∀ p, s.cont ≠ .speedUp p) : (engineAbsorb tx rx q).Inv := by
  have hq : q.cont = s.cont := r.mid.cont
  have hlimits : q.params.ncrLimit = s.params.ncrLimit ∧ q.params.tokenPollLimit = s.params.tokenPollLimit ∧
      q.params.drespLimit = s.params.drespLimit ∧ q.params.idleClockBytes = s.params.idleClockBytes ∧
      busyBound q.params = busyBound s.params := by
    rw [r.mid.params]
    exact ⟨rfl, rfl, rfl, rfl, rfl⟩
  have hdom := dom_of_inDomain h.domain
  have hbusy : 0 < busyBound s.params := Nat.add_pos_left hdom.bf _
  have move : ∀ {c}, Follows s.params s.cont c → State.Inv { q with cont := c } := r.inv_move h hb
  cases hc : s.cont <;> simp only [engineAbsorb, hq, hc]
  case idle => exact absurd hc hb
  case speedUp p => exact absurd hc (hsp p)
  case stuff | readCrcHi | writeToken | writeCrcHi | writeCrcLo | stopToken | stopGap =>
    exact move (by constructor <;> simp [hc, Cont.setUp, hdom.ncr, hdom.dr, hbusy])
  case xferByte => exact r.inv_finishOk (by simp [hc]) _
  case initTrail => exact r.inv_initConclude h hc
  case idleClocks =>
    split
    · exact r.inv_finishOk (by simp [hc]) q.data
    · exact move (by constructor <;> simp [hc, Cont.setUp])
  case xferWord =>
    split
    · exact move (by constructor <;> simp [hc, Cont.setUp])
    · exact r.inv_finishOk (by simp [hc]) _
  case frame c k =>
    obtain ⟨j, hj⟩ := setUp_frame c k
    split
    · exact move (by constructor <;> simp [hc, hj])
    · split <;> exact move (by constructor <;> simp [hc, hj, hdom.ncr])
  case r1Poll c k =>
    split
    · exact r.inv_txnAfterR1 h hc
    · split
      · exact r.inv_txnReturn h (.inl ⟨k, hc⟩)
      · exact move (by constructor <;> simp [hc, Cont.setUp]; omega)
  case trailing c r1 k g =>
    split
    · exact r.inv_txnReturn h (.inr ⟨r1, k, g, hc⟩)
    · split
      · exact move (by constructor <;> simp [hc, Cont.setUp])
      · exact r.inv_txnReturn h (.inr ⟨r1, k, g, hc⟩)
  case tokenWait k =>
    have hi : s.cont.runsInit = false := by simp [hc]
    split
    · exact move (by constructor <;> simp [hc, Cont.setUp])
    · split
      · exact r.inv_finishErr (code := .tokenFraming) (by decide) hi _ q.dresp false
      · split
        · exact r.inv_finishErr (code := .tokenTimeout) (by decide) hi _ q.dresp false
        · exact move (by constructor <;> simp [hc, Cont.setUp]; omega)
  case readData i =>
    have hcs := r.cs
    rw [hc] at hcs
    exact inv_readData h hc r.mid (r.phase_idle (by simp [hc])) (r.xfer.trans (by simp [hc]))
      (r.poll_false (by simp [hc])) (hcs rfl nofun)
  case writeData i =>
    rw [countEngineDraw_eq]
    exact (r.of_registers (crc16Step q.crc16 tx) q.dresp q.init.attempt _).inv_writeData h hc
  case readCrcLo hi =>
    split
    · exact r.inv_finishOk (by simp [hc]) _
    · rw [← hc, ← hq]
      exact r.inv_finishErr (code := .dataCrc) (by decide) (by simp [hc]) _ q.dresp q.status.xfer
  case writeResp k =>
    have hi : s.cont.runsInit = false := by simp [hc]
    split
    · split
      · exact (r.of_registers q.crc16 rx q.init.attempt q.draws).inv_move h hb
          (by constructor <;> simp [hc, Cont.setUp, hbusy])
      · rw [← hc, ← hq]
        exact r.inv_finishErr (code := .writeRejected) (by decide) hi q.data rx q.status.xfer
    · split
      · rw [← hc, ← hq]
        exact r.inv_finishErr (code := .drespTimeout) (by decide) hi q.data fill q.status.xfer
      · exact move (by constructor <;> simp [hc, Cont.setUp]; omega)
  case busy u k =>
    split
    · exact r.inv_busyReturn h hc
    · split
      · exact r.inv_busyReturn h hc
      · exact move (by cases u <;> constructor <;> simp [hc, Cont.setUp] <;> omega)
  case initClocks k =>
    obtain ⟨j, hj⟩ := setUp_initClocks k
    split
    · exact (r.of_registers q.crc16 q.dresp 0 q.draws).inv_move h hb
        (by constructor <;> simp [hc, hj, Caller.stage?, Caller.clock?, InitCmd.stage, InitCmd.fastClock,
          Caller.isInit])
    · exact move (by constructor <;> simp [hc, hj]; omega)

/-- An Engine step keeps the invariant. -/
theorem inv_engineStep {s t : State} (h : s.Inv) (ht : engineStep s = .next t) : t.Inv := by
  obtain ⟨-, rfl⟩ | ⟨hb, htx, rfl⟩ | ⟨hb, tx, htx, -, -, rfl⟩ := engineStep_cases ht
  · exact h
  · obtain hc | hc | ⟨p, hc⟩ := engineTx_none htx
    · exact absurd hc hb
    · simp only [engineQuiet, enginePrepare_cont, hc]
      obtain ⟨b1, b2, b3, b4, b5, b6, b7⟩ := (mid_prepare h hb).base
      refine Laws.inv_finishOk ⟨b1, b2, b3, b4, b5, b6, b7⟩ ?_
      have hphase := h.phaseInit
      simpa [enginePrepare, hc] using hphase
    · simp only [engineQuiet, enginePrepare_cont, hc]
      exact inv_speedUp h hc
  · have hsp : ∀ p, s.cont ≠ .speedUp p := by
      intro p hc
      simp [engineTx, hc] at htx
    have hr := (ready_prepare h hb hsp).exchange tx
    exact inv_engineAbsorb tx _ h hr hb hsp

/-- Settles O53: the set-up of a running operation leaves the bus enabled and no fault recorded. -/
theorem noModelFault : Obligations.NoModelFault := by
  unfold Obligations.NoModelFault
  intro s h
  by_cases hc : s.cont = .idle
  · exact ⟨s, engineStep_idle hc⟩
  · obtain ⟨hbase, -, -, -, hbus, -, -, -⟩ := mid_prepare h hc
    cases htx : engineTx (enginePrepare s) with
    | none => exact ⟨_, engineStep_quiet hc htx⟩
    | some tx => exact ⟨_, engineStep_exchange hc htx hbase.nofault hbus⟩

/-- Settles O43: every clause is a fact about one state written out. -/
theorem invReset : Obligations.InvReset := by
  unfold Obligations.InvReset
  have hdomain : Params.default.inDomain = true := by decide
  constructor <;> simp [State.reset, Status.reset, BusCtl.reset, csLevel, Mem.wf, Mem.wfFrom, hdomain]

end Sys2Proof.Proofs
end

section
/-! PROOFS. What one step can do, said once: the Engine's step, an OPCODE write, the Host's command, a register write, a
bad access to the window, a Host access or a wait, or the reset input (R10, R11, R57). On it stand the invariant and the
claims about every step. -/
namespace Sys2Proof.Proofs
open Sys2Proof.Machine Sys2Proof.Laws

/-! ### The kinds of a step -/

/-- The instructions that are a write to OPCODE: the operations and the reserved codes (R101, R103). -/
def Instr.isOperation (i : Instr) : Prop := (opCode i).isSome = true ∨ isReserved i = true

/-- What a step of s can do. -/
inductive StepCase (s : State) : State → Prop
  /-- The Engine's step, on the scripted answers or, for a token, on one more. -/
  | engine {rest : List HostAction} {card : List Byte} {t : State}
      (h : engineStep { s with hostq := rest, card := card } = .next t) : StepCase s t
  /-- A write to OPCODE. -/
  | operation {rest : List HostAction} {i : Instr} {t : State} (hi : Instr.isOperation i)
      (h : exec i { s with hostq := rest } = .next t) : StepCase s t
  /-- A command the Host sends. -/
  | command {rest : List HostAction} {idx : BitVec 6} {rtype : RespType} {arg : Word} {t : State}
      (h : sendCommand idx rtype arg { s with hostq := rest } = .next t) : StepCase s t
  /-- A register write. -/
  | write {rest : List HostAction} {off : Nat} {v : Word} : StepCase s (regWrite off v { s with hostq := rest })
  /-- An access of the window that is not 32-bit and aligned; a load returns 0. -/
  | badAccess {rest : List HostAction} {rdata : Word} :
      StepCase s { raiseFault .regAccess { s with hostq := rest } with rdata := rdata }
  /-- A Host store to system memory. -/
  | store {addr : Word} {width : Width} {v : Word} {rest : List HostAction} {t : State}
      (hq : s.hostq = .store addr width v :: rest) (hw : windowOffset s.params addr = none)
      (h : memStore addr.toNat width v { s with hostq := rest } = .next t) : StepCase s t
  /-- A Host load, a barrier or a round of a wait. -/
  | host {hostq : List HostAction} {rdata : Word} {draws : Nat} {hostStores engStores seenStores : List Nat} :
      StepCase s { s with
        hostq := hostq, rdata := rdata, draws := draws
        hostStores := hostStores, engStores := engStores, seenStores := seenStores }
  /-- The reset input. -/
  | reset {rest : List HostAction} (hq : s.hostq = .reset :: rest) :
      StepCase s (resetBlock { s with hostq := rest })

/-- A Host store. -/
theorem hostStore_stepCase {s t : State} {addr : Word} {width : Width} {v : Word} {rest : List HostAction}
    (hq : s.hostq = .store addr width v :: rest) (h : hostStore addr width v { s with hostq := rest } = .next t) :
    StepCase s t := by
  unfold hostStore at h
  split at h
  case h_1 =>
    cases h
    split
    · exact .write
    · exact .badAccess (rdata := (raiseFault .regAccess { s with hostq := rest }).rdata)
  case h_2 hw => exact .store hq hw h

/-- A Host load. -/
theorem hostLoad_stepCase {s t : State} {addr : Word} {width : Width} {rest : List HostAction}
    (h : hostLoad addr width { s with hostq := rest } = .next t) : StepCase s t := by
  unfold hostLoad at h
  split at h
  · cases h
    split
    · exact .host
    · exact .badAccess
  · obtain ⟨draws, hdraws⟩ := loadBytes_draws width.bytes addr.toNat { s with hostq := rest }
    unfold memLoad at h
    split at h
    · cases h
    · split at h
      · cases h
        rw [hdraws]
        exact .host
      · cases h

/-- A round of a Host wait. -/
theorem hostWait_stepCase (again : HostAction) (ended : Word → Bool) (s : State) (rest : List HostAction) :
    StepCase s (hostWait again ended { s with hostq := rest }) := by
  unfold hostWait
  dsimp only
  split <;> exact .host

/-- The Host's check of ERR. -/
theorem hostStopOnErr_stepCase (s : State) (rest : List HostAction) :
    StepCase s (hostStopOnErr { s with hostq := rest }) := by
  unfold hostStopOnErr
  dsimp only
  split <;> exact .host

/-- A token on the bus. -/
theorem tokenOnBus_stepCase {s t : State} {b : Byte} {rest : List HostAction}
    (h : tokenOnBus b { s with hostq := rest } = .next t) : StepCase s t := by
  obtain hidle | hstep | hcard := tokenOnBus_cases b { s with hostq := rest }
  · rw [hidle] at h
    cases h
    exact .host
  · exact .engine (card := s.card) (hstep.symm.trans h)
  · exact .engine (hcard.symm.trans h)

/-- An instruction: a token, a command, or a write to OPCODE. -/
theorem exec_stepCase (i : Instr) {s t : State} {rest : List HostAction}
    (h : exec i { s with hostq := rest } = .next t) : StepCase s t := by
  cases i
  case startToken | startTokenMulti | stopToken | dataResponse => exact tokenOnBus_stepCase h
  case sdFrame | cmd0 | cmd8 | cmd59 | cmd55 | acmd41 | cmd58 | cmd16 | cmd17 | cmd18 | cmd12 | cmd24 | cmd25 |
    acmd23 =>
    exact .command h
  case reserved13 | reserved14 | reserved15 | reserved16 | reserved17 | reserved18 | reserved19 | reserved1A
      | reserved1B | reserved1C | reserved1D | reserved1E | reserved1F => exact .operation (.inr rfl) h
  all_goals exact .operation (.inl rfl) h

/-- An event that is no instruction. -/
theorem fetch_stepCase {s t : State} (h : fetch s = .step (.next t)) : StepCase s t := by
  cases hq : s.hostq with
  | nil =>
    simp only [fetch, hq] at h
    exact .engine (rest := s.hostq) (card := s.card) (Fetched.step.inj h)
  | cons action rest =>
    cases action <;> simp only [fetch, hq] at h
    case store =>
      split at h
      · cases h
      · exact hostStore_stepCase hq (Fetched.step.inj h)
    case load => exact hostLoad_stepCase (Fetched.step.inj h)
    case engine => exact .engine (card := s.card) (Fetched.step.inj h)
    case frame | token => cases h
    case reset =>
      cases h
      exact .reset hq
    case dmb =>
      cases h
      exact .host
    case waitDone | waitBuf =>
      cases h
      exact hostWait_stepCase ..
    case stopOnErr =>
      cases h
      exact hostStopOnErr_stepCase ..

/-- Every step is one of these. -/
theorem step_cases {s t : State} (h : step s = .next t) : StepCase s t := by
  unfold step at h
  split at h
  case isFalse => cases h
  split at h
  case h_1 bytes u hfetch =>
    obtain ⟨rest, rfl⟩ := fetch_run hfetch
    split at h
    · exact exec_stepCase _ h
    · cases h
  case h_2 r hfetch => exact fetch_stepCase (hfetch.trans (congrArg Fetched.step h))

/-! ### What a write to OPCODE can do -/

/-- A launch in s that passed its checks: an immediate operation, done at once, or the start of one that the Engine
runs. Every field not named is that of s with its operands latched. -/
inductive Launched (s : State) : State → Prop
  | immediate {op : BitVec 5} {crc7 : BitVec 7} {crc16 : BitVec 16} {cardState : CardState} {bus : BusCtl}
      {events : List WireEvent} (hevents : ∀ e ∈ events, isExchange e = false)
      (hcard : cardState = s.status.cardState ∨ op = 0x02 ∧ bus.busEn = false ∧ cardState = .uninitialized) :
      Launched s (finishOk { latchOperands op s with
        crc7 := crc7, crc16 := crc16, bus := bus, wire := s.wire ++ events
        status := { (latchOperands op s).status with cardState := cardState } })
  | started {op : BitVec 5} {crc16 : BitVec 16} {xfer : Bool} {cont : Cont} {unordered : List Nat} :
      Launched s { latchOperands op s with
        crc16 := crc16, cont := cont, unordered := unordered
        status := { (latchOperands op s).status with xfer := xfer } }

/-- What a write to OPCODE in s can do (R316). -/
inductive OpcodeWrite (s : State) : State → Prop
  | ignored : OpcodeWrite s s
  | faulted {code : FaultCode} (hcode : code ≠ .none) (hfault : s.status.fault = false) :
      OpcodeWrite s (raiseFault code s)
  | launched {t : State} (hfault : s.status.fault = false) (hidle : s.cont = .idle) (h : Launched s t) :
      OpcodeWrite s t

/-- Through the check order of R316. -/
theorem launchGate_opcodeWrite {check : State → Option FaultCode} {go : State → State} {s t : State}
    (h : launchGate check go s = .next t) (hcheck : ∀ c, check s = some c → c ≠ .none)
    (hgo : check s = none → Launched s (go s)) : OpcodeWrite s t := by
  obtain ⟨-, e⟩ | ⟨hf, -, e⟩ | ⟨hf, -, code, hc, e⟩ | ⟨hf, hb, hc, e⟩ := launchGate_cases check go s <;>
    rw [e] at h <;> cases h
  · exact .ignored
  · exact .faulted (by decide) hf
  · exact .faulted (hcheck code hc) hf
  · exact .launched hf ((not_busy_iff s).mp hb) (hgo hc)

/-- The release of chip-select exchanges no byte. -/
theorem releaseEvents_quiet (s : State) : ∀ e ∈ s.releaseEvents, isExchange e = false := by
  unfold State.releaseEvents
  split <;> simp [isExchange]

/-- The assertion of chip-select exchanges no byte. -/
theorem assertEvents_quiet (s : State) : ∀ e ∈ s.assertEvents, isExchange e = false := by
  unfold State.assertEvents
  split <;> simp [isExchange]

/-- An immediate operation that changes the clock and a CRC register alone. -/
theorem Launched.of_registers {op : BitVec 5} {s : State} (crc7 : BitVec 7) (crc16 : BitVec 16) (bus : BusCtl) :
    Launched s (finishOk { latchOperands op s with crc7 := crc7, crc16 := crc16, bus := bus }) := by
  have h := Launched.immediate (s := s) (op := op) (crc7 := crc7) (crc16 := crc16) (bus := bus) (events := []) nofun
    (.inl rfl)
  rwa [List.append_nil] at h

/-- What an operation does once its launch has latched the operands: an immediate one runs its body and finishes, the
start of another is its first program point (R314, R317). -/
def launchGo (i : Instr) (s : State) : State :=
  match i with
  | .nop => finishOk s
  | .busEnable => finishOk (resetBus true s)
  | .busDisable => finishOk (setCardState .uninitialized (resetBus false s))
  | .csAssert => finishOk (setCs true s)
  | .csRelease => finishOk (setCs false s)
  | .setSpeed =>
    finishOk (if s.lat.bit0 then { s with bus := { s.bus with speedOp := true, level := s.lat.level } }
      else { s with bus := { s.bus with speedOp := false } })
  | .crc7Clear => finishOk { s with crc7 := 0 }
  | .crc7Feed => finishOk { s with crc7 := crc7Step s.crc7 s.lat.byte }
  | .crc16Clear => finishOk { s with crc16 := 0 }
  | .crc16Feed => finishOk (accumulate s.lat.byte s)
  | .idleClocks => { s with cont := .idleClocks s.lat.byte.toNat }
  | .xferByte => { s with cont := .xferByte }
  | .xferWord => { s with cont := .xferWord 0 0 }
  | .cmdSend => { s with cont := .frame .cmdSend 0 }
  | .readBlock => { armData s with cont := .tokenWait 0 }
  | .writeBlock => { armData s with cont := .writeToken, unordered := s.hostStores }
  | .stopTran => { s with cont := .stopToken }
  | .busyWait => { s with cont := .busy .busyWait 0 }
  | .init => { s with cont := .initClocks 0 }
  | _ => s

/-- An operation is its row of the launch table and what it does then (R313, R316). -/
theorem exec_operation {i : Instr} {op : BitVec 5} (hop : opCode i = some op) (s : State) :
    exec i s = launchGate (missing (launchRow i)) (fun s => launchGo i (latchOperands op s)) s := by
  cases i <;> cases hop <;> rfl

/-- An operation whose requirements hold where a launch is accepted (R313, R314). -/
theorem exec_launchOk {i : Instr} {op : BitVec 5} {s : State} (hop : opCode i = some op) (ha : s.accepting)
    (hok : launchOk i s) : exec i s = .next (launchGo i (latchOperands op s)) := by
  rw [exec_operation hop, launchGate_go _ _ s ha.1 ha.2 (missing_launchRow hok)]

/-- What an operation does once its launch has passed the checks. -/
theorem launchGo_launched {i : Instr} {op : BitVec 5} (hop : opCode i = some op) (s : State) :
    Launched s (launchGo i (latchOperands op s)) := by
  cases i <;> simp only [launchGo]
  case busEnable =>
    rw [resetBus_eq]
    exact .immediate (releaseEvents_quiet s) (.inl rfl)
  case busDisable =>
    rw [resetBus_eq]
    exact .immediate (releaseEvents_quiet s) (.inr ⟨(Option.some.inj hop).symm, rfl, rfl⟩)
  case csAssert =>
    rw [setCs_true]
    exact .immediate (assertEvents_quiet s) (.inl rfl)
  case csRelease =>
    rw [setCs_false]
    exact .immediate (releaseEvents_quiet s) (.inl rfl)
  case setSpeed => split <;> exact .of_registers s.crc7 s.crc16 _
  case nop => exact .of_registers s.crc7 s.crc16 s.bus
  case crc7Clear | crc7Feed => exact .of_registers _ s.crc16 s.bus
  case crc16Clear | crc16Feed => exact .of_registers s.crc7 _ s.bus
  case idleClocks | xferByte | xferWord | cmdSend | readBlock | writeBlock | stopTran | busyWait | init =>
    exact .started
  all_goals exact nomatch hop

/-- A write to OPCODE. -/
theorem exec_opcodeWrite {i : Instr} {s t : State} (hi : Instr.isOperation i) (h : exec i s = .next t) :
    OpcodeWrite s t := by
  obtain hop | hres := hi
  · obtain ⟨op, hop⟩ := Option.isSome_iff_exists.mp hop
    rw [exec_operation hop] at h
    exact launchGate_opcodeWrite h (fun _ hc => missing_ne hc) fun _ => launchGo_launched hop s
  · rw [exec_reserved hres] at h
    exact launchGate_opcodeWrite h (fun c hc => by cases hc; decide) nofun

/-- A write to CMDIDX sets it (R37). -/
theorem regWrite_cmdIdx {s : State} (v : Word) (h : s.status.fault = false) :
    regWrite 0x0C v s = { s with cmdIdx := CmdIdxReg.ofWord v } := by
  simp [regWrite, h]

/-- A write to CMDARG sets it (R38). -/
theorem regWrite_cmdArg {s : State} (v : Word) (h : s.status.fault = false) :
    regWrite 0x10 v s = { s with cmdArg := v } := by
  simp [regWrite, h]

/-- A write to DATA sets it (R39). -/
theorem regWrite_data {s : State} (v : Word) (h : s.status.fault = false) :
    regWrite 0x14 v s = { s with data := v } := by
  simp [regWrite, h]

/-- A write to BUFADDR sets it (R40). -/
theorem regWrite_bufAddr {s : State} (v : Word) (h : s.status.fault = false) :
    regWrite 0x18 v s = { s with bufAddr := v } := by
  simp [regWrite, h]

/-- RTYPE is read back from its code (R37). -/
theorem respType_ofCode_code (t : RespType) : RespType.ofCode t.code = t := by
  cases t <;> rfl

/-- CMDIDX written with the word it reads as is the same (R37). -/
theorem cmdIdxReg_ofWord_word (c : CmdIdxReg) : CmdIdxReg.ofWord c.word = c := by
  have hidx : c.word.extractLsb' 0 6 = c.idx := by
    unfold CmdIdxReg.word
    ext j hj
    simp
    grind
  have hrtype : c.word.extractLsb' 8 2 = c.rtype.code := by
    unfold CmdIdxReg.word
    ext j hj
    simp
    grind
  rw [CmdIdxReg.ofWord, hidx, hrtype, respType_ofCode_code]

/-- A command the Host sends is CMD_SEND with its index, response type and argument in the registers (R106). -/
theorem sendCommand_eq {idx : BitVec 6} {rtype : RespType} {arg : Word} {s : State} (hf : s.status.fault = false) :
    sendCommand idx rtype arg s =
      exec .cmdSend { s with cmdIdx := { idx := idx, rtype := rtype }, cmdArg := arg } := by
  rw [sendCommand, regWrite_cmdIdx _ hf, regWrite_cmdArg _ (by exact hf), cmdIdxReg_ofWord_word]
  rfl

/-- A command the Host sends: its two register writes, and a write to OPCODE (R106). -/
theorem sendCommand_opcodeWrite {idx : BitVec 6} {rtype : RespType} {arg : Word} {s t : State}
    (h : sendCommand idx rtype arg s = .next t) :
    ∃ cmdIdx cmdArg, OpcodeWrite { s with cmdIdx := cmdIdx, cmdArg := cmdArg } t := by
  cases hf : s.status.fault
  · rw [sendCommand_eq hf] at h
    exact ⟨_, _, exec_opcodeWrite (i := .cmdSend) (.inl rfl) h⟩
  · rw [sendCommand_faulted hf] at h
    cases h
    exact ⟨s.cmdIdx, s.cmdArg, .ignored⟩

end Sys2Proof.Proofs
end

section
/-! PROOFS. The claims about every step: the invariant, CARD_STATE's transitions, the wire, system memory and the
fault. -/
namespace Sys2Proof.Proofs
open Sys2Proof.Machine Sys2Proof.Laws

/-! ### The invariant -/

/-- An operation that has passed its checks keeps the invariant (R314, R317). -/
theorem inv_launchGo {i : Instr} {op : BitVec 5} {s : State} (hop : opCode i = some op) (h : s.Inv)
    (hf : s.status.fault = false) (hc : s.cont = .idle) (hm : missing (launchRow i) s = none) :
    (launchGo i (latchOperands op s)).Inv := by
  obtain ⟨hbus, -, hcs, hbuffer⟩ := missing_none_iff hm
  obtain ⟨b1, b2, b3, b4, b5, b6, b7⟩ := inv_base_of_ok h hf
  have hbase : Base (latchOperands op s) := ⟨b1, b2, b3, b4, b5, b6, b7⟩
  have hphase : s.init.phase = .idle := (inv_idle h hc).2.2.2
  have hdom := dom_of_inDomain h.domain
  have hbusy : 0 < busyBound s.params := Nat.add_pos_left hdom.bf _
  cases i <;> cases hop <;> simp only [launchGo]
  case nop => exact Laws.inv_finishOk hbase hphase
  case busEnable => exact Laws.inv_finishOk (base_enable hbase) (by simpa using hphase)
  case busDisable =>
    have hclosed : Base (setCardState .uninitialized (resetBus false (latchOperands 0x02 s))) := by
      obtain ⟨d1, d2, d3, -, d5, d6, d7⟩ :=
        base_resetBus false (s := setCardState .uninitialized (latchOperands 0x02 s))
        ⟨b1, b2, b3, fun _ => rfl, b5, b6, b7⟩ rfl
      rw [resetBus_eq] at d1 d2 d3 d5 d6 d7 ⊢
      exact ⟨d1, d2, d3, fun _ => rfl, d5, d6, d7⟩
    exact Laws.inv_finishOk hclosed (by simpa [setCardState] using hphase)
  case csAssert => exact Laws.inv_finishOk (base_setCs true hbase (hbus rfl)) (by simpa using hphase)
  case csRelease => exact Laws.inv_finishOk (base_release hbase) (by simpa using hphase)
  case setSpeed => split <;> exact Laws.inv_finishOk ⟨b1, b2, b3, b4, b5, b6, b7⟩ hphase
  case crc7Clear | crc7Feed | crc16Clear | crc16Feed =>
    exact Laws.inv_finishOk ⟨b1, b2, b3, b4, b5, b6, b7⟩ hphase
  case idleClocks | xferByte | xferWord | cmdSend =>
    exact inv_start h hf hc (.inl (hbus rfl)) rfl (by simp [initCode, Caller.isInit]) rfl rfl rfl nofun rfl
  case stopTran => exact inv_start h hf hc (.inl (hbus rfl)) rfl (by decide) rfl rfl rfl (fun _ => hcs rfl) rfl
  case busyWait =>
    exact inv_start h hf hc (.inl (hbus rfl)) rfl (by decide) rfl rfl rfl (fun _ => hcs rfl) (by simp [hbusy])
  case init =>
    exact inv_start h hf hc (.inr rfl) rfl (by decide) rfl rfl rfl nofun
      (by simpa using Nat.lt_of_lt_of_le (by decide) hdom.a)
  case readBlock =>
    exact inv_startData h hf hc (hbus rfl) rfl (hbuffer rfl) (op := 0x0E) (by decide) rfl rfl rfl rfl rfl rfl rfl rfl
      rfl rfl rfl rfl (hcs rfl) (by simp [hdom.tk])
  case writeBlock =>
    exact inv_startData h hf hc (hbus rfl) rfl (hbuffer rfl) (op := 0x0F) (by decide) rfl rfl rfl rfl rfl rfl rfl rfl
      rfl rfl rfl rfl (hcs rfl) rfl

/-- A register write keeps the invariant (R35, R56). -/
theorem inv_regWrite {s : State} (off : Nat) (v : Word) (h : s.Inv) : (regWrite off v s).Inv := by
  unfold regWrite
  split
  · exact h
  · split
    case h_1 =>
      obtain ⟨h1, h2, h3, h4, h5, h6, h7, h8, h9, h10, h11, h12, h13, h14, h15, h16, h17, h18, h19, h20, h21, h22⟩ := h
      refine ⟨h1, h2, h3, h4, ?_, fun hb => ?_, h7, h8, h9, h10, h11, h12, h13, h14, h15, h16, h17, h18, h19, h20, h21,
        h22⟩
      · simp only [clearStatus]
        generalize v.getLsbD 2 = b
        cases b with
        | true => simp
        | false => simpa using h5
      · obtain ⟨hdone, herr⟩ := h6 hb
        simp [clearStatus, hdone, herr]
    all_goals exact inv_host h rfl rfl rfl rfl rfl rfl h.memWf rfl rfl rfl

/-- What the Host is to do next and what the Card answers next do not matter to the invariant. -/
theorem inv_of_script {s : State} (h : s.Inv) (rest : List HostAction) (card : List Byte) :
    State.Inv { s with hostq := rest, card := card } :=
  inv_host h rfl rfl rfl rfl rfl rfl h.memWf rfl rfl rfl

/-- A write to OPCODE keeps the invariant (R316). -/
theorem inv_exec_operation {i : Instr} {s t : State} (hi : Instr.isOperation i) (h : s.Inv) (ht : exec i s = .next t) :
    t.Inv := by
  obtain hop | hres := hi
  · obtain ⟨op, hop⟩ := Option.isSome_iff_exists.mp hop
    rw [exec_operation hop] at ht
    exact inv_launchGate h ht (fun _ hc => missing_ne hc) fun hf hc hm => inv_launchGo hop h hf hc hm
  · rw [exec_reserved hres] at ht
    exact inv_launchGate h ht (fun c hc => by cases hc; decide) nofun

/-- Settles O44: case by case of what a step can do. -/
theorem invStep : Obligations.InvStep := by
  unfold Obligations.InvStep
  intro s t h hstep
  have hrest : ∀ rest, State.Inv { s with hostq := rest } := fun rest => inv_of_script h rest s.card
  cases step_cases hstep with
  | engine ht => exact inv_engineStep (inv_of_script h _ _) ht
  | operation hi ht => exact inv_exec_operation hi (hrest _) ht
  | @command rest idx rtype arg _ ht =>
    cases hf : s.status.fault
    · rw [sendCommand_eq (s := { s with hostq := rest }) hf] at ht
      refine inv_exec_operation (i := .cmdSend) (.inl rfl) ?_ ht
      exact inv_host h rfl rfl rfl rfl rfl rfl h.memWf rfl rfl rfl
    · rw [sendCommand_faulted (s := { s with hostq := rest }) hf] at ht
      cases ht
      exact hrest rest
  | write => exact inv_regWrite _ _ (hrest _)
  | @badAccess rest _ =>
    have hfault := inv_raiseFault (c := .regAccess) (by decide) (hrest rest)
    exact inv_host hfault rfl rfl rfl rfl rfl rfl hfault.memWf rfl rfl rfl
  | @store addr width v rest _ hq hw ht =>
    unfold memStore at ht
    split at ht
    · cases ht
    · split at ht
      · cases ht
        have hmem := storeBytes_mem_wf ((wordBytes v).take width.bytes) addr.toNat { s with hostq := rest } h.memWf
        rw [storeBytes_eq]
        exact inv_host h rfl rfl rfl rfl rfl rfl hmem rfl rfl rfl
      · cases ht
  | host => exact inv_host h rfl rfl rfl rfl rfl rfl h.memWf rfl rfl rfl
  | reset => exact inv_resetBlock (hrest _)

/-- Settles O46: after a fault every event but a reset leaves the block as it is. -/
theorem faultIsFinal : Obligations.FaultIsFinal := by
  unfold Obligations.FaultIsFinal
  intro s t h hf hstep hr
  have hidle := (h.faultHalts hf).1
  obtain ⟨_, _, _, _, _, _, _, rfl⟩ := step_faulted hf hidle hstep hr
  exact ⟨rfl, rfl, rfl, rfl, rfl, rfl, rfl, rfl, rfl, rfl, rfl, rfl, rfl, rfl, hidle, rfl, rfl⟩

/-! ### The set-up of an Engine step -/

/-- The fields that the set-up of an Engine step neither reads nor writes. -/
def State.withInputs (config : ConfigReg) (cmdIdx : CmdIdxReg) (cmdArg data bufAddr : Word) (hostq : List HostAction)
    (card : List Byte) (s : State) : State :=
  { s with
    config := config, cmdIdx := cmdIdx, cmdArg := cmdArg, data := data, bufAddr := bufAddr, hostq := hostq
    card := card }

/-- The set-up of an Engine step neither reads nor writes the operand registers and the script. -/
theorem enginePrepare_withInputs (config : ConfigReg) (cmdIdx : CmdIdxReg) (cmdArg data bufAddr : Word)
    (hostq : List HostAction) (card : List Byte) (s : State) :
    enginePrepare (State.withInputs config cmdIdx cmdArg data bufAddr hostq card s) =
      State.withInputs config cmdIdx cmdArg data bufAddr hostq card (enginePrepare s) := by
  cases hc : s.cont <;> simp only [enginePrepare, State.withInputs, hc]
  case frame c k => 
    split
    · rw [← hc, txnStart_eq, txnStart_eq]
      rfl
    · rw [hc]
  case initTrail =>
    rw [← hc, setCs_false, setCs_false]
    rfl
  case initClocks =>
    split
    · rw [← hc, initStart, initStart, resetBus_eq, resetBus_eq]
      rfl
    · rw [hc]
  case xferWord | readData | writeData =>
    rw [← hc]
    split <;> rfl
/-- The set-up of an Engine step leaves the script alone. -/
theorem enginePrepare_script (hostq : List HostAction) (card : List Byte) (s : State) :
    enginePrepare { s with hostq := hostq, card := card } = { enginePrepare s with hostq := hostq, card := card } := by
  have h := enginePrepare_withInputs s.config s.cmdIdx s.cmdArg s.data s.bufAddr hostq card s
  simp only [State.withInputs] at h
  rw [h]
  simp only [← enginePrepare_config s, ← enginePrepare_cmdIdx s, ← enginePrepare_cmdArg s, ← enginePrepare_data s,
    ← enginePrepare_bufAddr s]

/-- The set-up of an Engine step: the bus with its events, CRC7, INIT's counters and POLL; CARD_STATE only at INIT's
start. -/
theorem enginePrepare_eq (s : State) : ∃ bus crc7 init events poll cardState,
    enginePrepare s = { s with
      bus := bus, crc7 := crc7, init := init, wire := s.wire ++ events
      status := { s.status with poll := poll, cardState := cardState } } ∧
    (∀ e ∈ events, isExchange e = false) ∧
    cardState = (if s.cont = .initClocks 0 then .uninitialized else s.status.cardState) := by
  by_cases hstart : s.cont = .initClocks 0
  · have hp : enginePrepare s = initStart s := by simp [enginePrepare, hstart]
    rw [hp, initStart, resetBus_eq, if_pos hstart]
    exact ⟨_, s.crc7, _, _, s.status.poll, _, rfl, releaseEvents_quiet s, rfl⟩
  rw [if_neg hstart]
  have plain : ∀ bus init poll, ∃ bus' crc7 init' events poll' cardState,
      { s with bus := bus, init := init, status := { s.status with poll := poll } } = { s with
        bus := bus', crc7 := crc7, init := init', wire := s.wire ++ events
        status := { s.status with poll := poll', cardState := cardState } } ∧
      (∀ e ∈ events, isExchange e = false) ∧ cardState = s.status.cardState := fun bus init poll =>
    ⟨bus, s.crc7, init, [], poll, s.status.cardState, by rw [List.append_nil], nofun, rfl⟩
  have same := plain s.bus s.init s.status.poll
  unfold enginePrepare
  split
  case h_1 => exact plain _ s.init s.status.poll
  case h_3 =>
    split
    · rw [txnStart_eq]
      exact ⟨_, _, _, _, s.status.poll, s.status.cardState, rfl, assertEvents_quiet s, rfl⟩
    · exact same
  case h_4 =>
    rw [setCs_false]
    exact ⟨_, s.crc7, s.init, _, s.status.poll, s.status.cardState, rfl, releaseEvents_quiet s, rfl⟩
  case h_2 | h_5 | h_6 =>
    split
    · exact plain _ s.init s.status.poll
    · exact same
  case h_7 => exact plain s.bus s.init true
  case h_8 k hc =>
    split
    · exact absurd (by simp_all) hstart
    · exact same
  case h_9 => exact plain _ _ s.status.poll
  case h_10 => exact same

/-! ### CARD_STATE -/

/-- What follows the exchange of a step moves CARD_STATE forward within INIT, or back at a finish with ERR (R290). -/
theorem Absorbed.cardState {q t : State} (h : Absorbed q t) :
    t.status.cardState = q.status.cardState ∨ CardForward q.cont t.status.cardState ∨
      (t.status.cardState = .uninitialized ∧ t.status.err = true) := by
  cases h with
  | goesOn _ _ _ hcard _ => exact hcard.imp_right .inl
  | finished _ hcard => exact hcard.imp_right .inl
  | failed _ _ hbus =>
    simp only [finishErr, setCs_status]
    obtain ⟨-, -, rfl⟩ | ⟨-, -, -, rfl⟩ := hbus
    · split
      · exact .inr (.inr ⟨rfl, trivial⟩)
      · exact .inl rfl
    · exact .inr (.inr ⟨by simp, trivial⟩)

/-- An Engine step moves CARD_STATE at INIT's start, forward within INIT, or back at a finish with ERR (R290). -/
theorem engineStep_cardState {s t : State} (hb : s.cont ≠ .idle) (h : engineStep s = .next t) :
    t.status.cardState = s.status.cardState ∨ (s.cont = .initClocks 0 ∧ t.status.cardState = .uninitialized) ∨
      CardForward s.cont t.status.cardState ∨ (t.status.cardState = .uninitialized ∧ t.status.err = true) := by
  obtain ⟨_, _, _, _, _, cardState, hp, -, hcard⟩ := enginePrepare_eq s
  have through : ∀ q, q.status.cardState = cardState → q.cont = s.cont → Absorbed q t →
      t.status.cardState = s.status.cardState ∨ (s.cont = .initClocks 0 ∧ t.status.cardState = .uninitialized) ∨
        CardForward s.cont t.status.cardState ∨ (t.status.cardState = .uninitialized ∧ t.status.err = true) := by
    intro q hq hqc ha
    obtain hsame | hforward | hback := ha.cardState
    · rw [hsame, hq, hcard]
      split
      · exact .inr (.inl ⟨‹_›, rfl⟩)
      · exact .inl rfl
    · exact .inr (.inr (.inl (hqc ▸ hforward)))
    · exact .inr (.inr (.inr hback))
  obtain ⟨-, ha⟩ | ⟨tx, -, ha⟩ := engineStep_absorbed hb h
  · exact through _ (by rw [hp]) (by simp) ha
  · exact through _ (by simp [hp]) (by simp) ha

/-- A register write leaves CARD_STATE. -/
@[simp] theorem regWrite_cardState (off : Nat) (v : Word) (s : State) :
    (regWrite off v s).status.cardState = s.status.cardState := by
  unfold regWrite
  split
  · rfl
  · split <;> rfl

/-- The first fault uninitializes the card (R321). -/
theorem raiseFault_cardState {code : FaultCode} {s : State} (h : s.status.fault = false) :
    (raiseFault code s).status.cardState = .uninitialized := by
  rw [raiseFault_eq code s h]

/-- A write to OPCODE moves CARD_STATE at a fault or at BUS_DISABLE (R290). -/
theorem OpcodeWrite.cardState {s t : State} (h : OpcodeWrite s t) :
    t.status.cardState = s.status.cardState ∨ t.status.cardState = .uninitialized ∧
      ((t.lat.op = 0x02 ∧ t.status.done = true ∧ t.bus.busEn = false) ∨
       (s.status.fault = false ∧ t.status.fault = true)) := by
  cases h with
  | ignored => exact .inl rfl
  | faulted _ hf => exact .inr ⟨raiseFault_cardState hf, .inr ⟨hf, raiseFault_fault ..⟩⟩
  | launched _ _ hl =>
    cases hl with
    | immediate _ hcard =>
      obtain hsame | ⟨hop, hbus, hclosed⟩ := hcard
      · exact .inl hsame
      · exact .inr ⟨hclosed, .inl ⟨hop, rfl, hbus⟩⟩
    | started => exact .inl rfl

/-- Settles O45: within INIT the invariant gives the state that CARD_STATE moves from. -/
theorem cardStateMoves : Obligations.CardStateMoves := by
  unfold Obligations.CardStateMoves
  intro s t h hstep hne
  have written : ∀ q : State, q.status = s.status → OpcodeWrite q t →
      t.status.cardState = .uninitialized ∧ ((t.lat.op = 0x02 ∧ t.status.done = true ∧ t.bus.busEn = false) ∨
        (s.status.fault = false ∧ t.status.fault = true)) := by
    intro q hq hw
    obtain hsame | hmoved := hw.cardState
    · exact absurd (hsame.trans (congrArg Status.cardState hq)) hne
    · rwa [hq] at hmoved
  cases step_cases hstep with
  | @engine rest card _ ht =>
    by_cases hc : s.cont = .idle
    · rw [engineStep_idle (s := { s with hostq := rest, card := card }) hc] at ht
      cases ht
      exact absurd rfl hne
    · have herr := (h.busyClears hc).2
      have hstage := h.stage
      obtain hsame | ⟨hstart, hclosed⟩ | hforward | ⟨hclosed, hfail⟩ :=
        engineStep_cardState (s := { s with hostq := rest, card := card }) hc ht
      · exact absurd hsame hne
      · exact .inl ⟨hclosed, .inl hstart⟩
      · generalize hcont : s.cont = c at hforward hstage
        generalize t.status.cardState = card' at hforward
        cases hforward with
        | goIdle tail p => exact .inr (.inl ⟨hstage _ rfl, rfl, tail, p, rfl⟩)
        | ifCond v p hv => exact .inr (.inr (.inl ⟨hstage _ rfl, rfl, v, p, rfl, hv⟩))
        | blockLen tail p => exact .inr (.inr (.inr ⟨hstage _ rfl, rfl, tail, p, rfl⟩))
      · exact .inl ⟨hclosed, .inr (.inl ⟨herr, hfail⟩)⟩
  | operation hi ht =>
    obtain ⟨hclosed, hwhy⟩ := written _ (by rfl) (exec_opcodeWrite hi ht)
    exact .inl ⟨hclosed, .inr (.inr (hwhy.imp_right .inl))⟩
  | command ht =>
    obtain ⟨cmdIdx, cmdArg, hw⟩ := sendCommand_opcodeWrite ht
    obtain ⟨hclosed, hwhy⟩ := written _ (by rfl) hw
    exact .inl ⟨hclosed, .inr (.inr (hwhy.imp_right .inl))⟩
  | write => exact absurd (by simp) hne
  | @badAccess rest _ =>
    cases hf : s.status.fault
    · exact .inl ⟨raiseFault_cardState (s := { s with hostq := rest }) hf,
        .inr (.inr (.inr (.inl ⟨rfl, raiseFault_fault ..⟩)))⟩
    · exact absurd (by rw [raiseFault_sticky _ _ (by exact hf)]) hne
  | store _ _ ht =>
    obtain ⟨_, _, _, _, _, _, _, rfl⟩ := memStore_sameBlock ht
    exact absurd rfl hne
  | host => exact absurd rfl hne
  | reset hq => exact .inl ⟨rfl, .inr (.inr (.inr (.inr (by simp [hq]))))⟩

/-! ### The wire -/

/-- What follows the exchange of a step adds at most the release of chip-select to the wire. -/
theorem Absorbed.wire {q t : State} (h : Absorbed q t) :
    ∃ after, (∀ e ∈ after, isExchange e = false) ∧ t.wire = q.wire ++ after := by
  cases h with
  | goesOn => exact ⟨[], nofun, (List.append_nil _).symm⟩
  | finished => exact ⟨[], nofun, (List.append_nil _).symm⟩
  | failed _ _ hbus =>
    rw [finishErr, setCs_false]
    obtain ⟨-, rfl, -⟩ | ⟨-, -, rfl, -⟩ := hbus
    · exact ⟨_, releaseEvents_quiet _, rfl⟩
    · refine ⟨_ ++ _, ?_, List.append_assoc ..⟩
      intro e he
      obtain he | he := List.mem_append.mp he
      · exact releaseEvents_quiet q e he
      · exact releaseEvents_quiet _ e he

/-- A fault adds at most the release of chip-select to the wire (R321). -/
theorem raiseFault_wire (code : FaultCode) (s : State) :
    ∃ after, (∀ e ∈ after, isExchange e = false) ∧ (raiseFault code s).wire = s.wire ++ after := by
  cases hf : s.status.fault
  · rw [raiseFault_eq code s hf]
    cases hcs : s.bus.cs
    · exact ⟨[], nofun, by simp⟩
    · exact ⟨[.csChange false], by simp [isExchange], by simp⟩
  · rw [raiseFault_sticky code s hf]
    exact ⟨[], nofun, (List.append_nil _).symm⟩

/-- A write to OPCODE exchanges no byte. -/
theorem OpcodeWrite.wire {s t : State} (h : OpcodeWrite s t) :
    ∃ after, (∀ e ∈ after, isExchange e = false) ∧ t.wire = s.wire ++ after := by
  cases h with
  | ignored => exact ⟨[], nofun, (List.append_nil _).symm⟩
  | faulted => exact raiseFault_wire ..
  | launched _ _ hl =>
    cases hl with
    | immediate hevents _ => exact ⟨_, hevents, rfl⟩
    | started => exact ⟨[], nofun, (List.append_nil _).symm⟩

/-- From s to t the wire grows by events that exchange no byte and, where an operation runs, by at most one exchange. -/
def WireExtends (s t : State) : Prop :=
  ∃ before after : List WireEvent, (∀ e ∈ before ++ after, isExchange e = false) ∧
    (t.wire = s.wire ++ before ++ after ∨
     (s.cont ≠ .idle ∧ ∃ tx rx, t.wire = s.wire ++ before
        ++ [.exchange (csLevel (s.wire ++ before)) (enginePrepare s).bus.speedOp (enginePrepare s).bus.level tx rx]
        ++ after))

/-- An Engine step adds its set-up's events, at most one exchange under the chip-select that the wire shows, and its
finish's events. -/
theorem engineStep_wire {s t : State} (h : s.Inv) (ht : engineStep s = .next t) : WireExtends s t := by
  by_cases hc : s.cont = .idle
  · rw [engineStep_idle hc] at ht
    cases ht
    exact ⟨[], [], nofun, .inl (by simp)⟩
  · obtain ⟨_, _, _, before, _, _, hp, hbefore, -⟩ := enginePrepare_eq s
    have hwire : (enginePrepare s).wire = s.wire ++ before := by rw [hp]
    obtain ⟨-, ha⟩ | ⟨tx, -, ha⟩ := engineStep_absorbed hc ht
    all_goals
      obtain ⟨after, hafter, heq⟩ := ha.wire
      refine ⟨before, after, fun e he => (List.mem_append.mp he).elim (hbefore e) (hafter e), ?_⟩
    · exact .inl (by rw [heq, hwire])
    · refine .inr ⟨hc, tx, (exchange tx (enginePrepare s)).1, ?_⟩
      rw [heq, exchange_wire, (mid_prepare h hc).base.csWire, hwire]

/-- Settles O47: only the Engine exchanges bytes. -/
theorem wireGrows : Obligations.WireGrows := by
  unfold Obligations.WireGrows
  intro s t h hstep hr
  have quiet : ∀ {after : List WireEvent}, (∀ e ∈ after, isExchange e = false) → t.wire = s.wire ++ after →
      WireExtends s t :=
    fun hafter heq => ⟨[], _, hafter, .inl (by rw [heq, List.append_nil])⟩
  have same : t.wire = s.wire → WireExtends s t := fun heq =>
    quiet (after := []) nofun (heq.trans (List.append_nil _).symm)
  cases step_cases hstep with
  | @engine rest card _ ht =>
    have hwire := engineStep_wire (inv_of_script h rest card) ht
    rwa [WireExtends, enginePrepare_script] at hwire
  | operation hi ht =>
    obtain ⟨after, hafter, heq⟩ := (exec_opcodeWrite hi ht).wire
    exact quiet hafter heq
  | command ht =>
    obtain ⟨cmdIdx, cmdArg, hw⟩ := sendCommand_opcodeWrite ht
    obtain ⟨after, hafter, heq⟩ := hw.wire
    exact quiet hafter heq
  | write => exact same (by simp)
  | badAccess =>
    obtain ⟨after, hafter, heq⟩ := raiseFault_wire .regAccess { s with hostq := _ }
    exact quiet hafter heq
  | store _ _ ht =>
    obtain ⟨_, _, _, _, _, _, _, rfl⟩ := memStore_sameBlock ht
    exact same rfl
  | host => exact same rfl
  | reset hq => exact absurd (by simp [hq]) hr

/-! ### The Engine's exchange -/

/-- The exchange takes one answer of the Card, the next scripted one or, where none is scripted, a draw (R12, R140). -/
theorem exchange_answer {tx rx : Byte} {rest : List Byte} {q : State}
    (h : q.card = rx :: rest ∨ (q.card = [] ∧ rest = [] ∧ rx = Config.cardAnswer q.draws q.wire q.bus.cs tx)) :
    (exchange tx q).1 = rx ∧ (exchange tx q).2.card = rest ∧
      (q.card = [] → q.draws < (exchange tx q).2.draws) := by
  obtain hscript | ⟨hnone, rfl, rfl⟩ := h
  · rw [exchange_scripted tx rx rest q hscript]
    exact ⟨rfl, rfl, fun hnone => absurd (hscript.symm.trans hnone) nofun⟩
  · simp [exchange, cardAnswer, hnone]

/-- What follows the exchange of a step takes back no draw. -/
theorem Absorbed.draws_le {q t : State} (h : Absorbed q t) : q.draws ≤ t.draws := by
  cases h with
  | goesOn _ _ _ _ hdraws => exact hdraws
  | finished => exact le_rfl
  | failed => simp [finishErr]

/-- Settles O48: the set-up and the byte do not read the script, and what follows the exchange takes nothing of it. -/
theorem engineExchange : Obligations.EngineExchange := by
  unfold Obligations.EngineExchange
  intro s tx h hb htx
  obtain ⟨hbase, -, -, -, hbus, -, hcont, -⟩ := mid_prepare h hb
  refine ⟨fun rx rest hanswer => ?_, fun l => ?_⟩
  · rw [← enginePrepare_card s, ← enginePrepare_draws s] at hanswer ⊢
    obtain ⟨hrx, hrest, hdraws⟩ := exchange_answer hanswer
    have ha := engineAbsorb_absorbed tx (exchange tx (enginePrepare s)).1 (q := (exchange tx (enginePrepare s)).2)
      (by simpa [hcont] using hb)
    obtain ⟨more, hmore, hwire⟩ := ha.wire
    refine ⟨_, more, engineStep_exchange hb htx hbase.nofault hbus, by simpa using hrest,
      fun hnone => Nat.lt_of_lt_of_le (hdraws hnone) ha.draws_le, hmore, ?_⟩
    rw [hwire, exchange_wire, hrx]
  · have hscript := enginePrepare_script s.hostq l s
    rw [hscript]
    exact htx

/-! ### System memory -/

/-- An Engine step writes no byte of memory but READ_BLOCK's data byte i (R83, R232). -/
theorem engineStep_mem {s t : State} (hb : s.cont ≠ .idle) (ht : engineStep s = .next t) :
    t.mem = s.mem ∨ ∃ i rx, s.cont = .readData i ∧ t.mem = s.mem.write (s.lat.byteAddr i) rx := by
  have through : ∀ {q : State}, q.mem = s.mem → q.cont = s.cont → q.lat = s.lat → Absorbed q t →
      t.mem = s.mem ∨ ∃ i rx, s.cont = .readData i ∧ t.mem = s.mem.write (s.lat.byteAddr i) rx := by
    intro q hmem hcont hlat ha
    rw [← hmem, ← hcont, ← hlat]
    cases ha with
    | goesOn _ hmem _ _ _ => exact hmem
    | finished => exact .inl rfl
    | failed => exact .inl (by simp [finishErr])
  obtain ⟨-, ha⟩ | ⟨tx, -, ha⟩ := engineStep_absorbed hb ht
  · exact through (by simp) (by simp) (by simp) ha
  · exact through (by simp) (by simp) (by simp) ha

/-- A write to OPCODE writes no byte of memory. -/
theorem OpcodeWrite.mem {s t : State} (h : OpcodeWrite s t) : t.mem = s.mem := by
  cases h with
  | ignored => rfl
  | faulted => exact raiseFault_mem ..
  | launched _ _ hl => cases hl <;> rfl

/-- Settles O49: READ_BLOCK's byte lies in the buffer that its launch admitted. -/
theorem memoryWrites : Obligations.MemoryWrites := by
  unfold Obligations.MemoryWrites
  intro s t a h hstep hne
  have hchanged : t.mem ≠ s.mem := fun hmem => hne (by rw [hmem])
  cases step_cases hstep with
  | @engine rest card _ ht =>
    by_cases hc : s.cont = .idle
    · rw [engineStep_idle (s := { s with hostq := rest, card := card }) hc] at ht
      cases ht
      exact absurd rfl hchanged
    · obtain hmem | ⟨i, rx, hi, hmem⟩ := engineStep_mem (s := { s with hostq := rest, card := card }) hc ht
      · exact absurd hmem hchanged
      · have hi : s.cont = .readData i := hi
        obtain ⟨hfits, hadmits⟩ := h.bufferFits (by simp [hi])
        refine .inr ⟨i, hi, ?_, hadmits⟩
        rw [← byteAddr_eq s.lat i hfits]
        by_contra ha
        exact hne (by rw [hmem]; exact read_write_other rx ha s.mem)
  | operation hi ht => exact absurd (exec_opcodeWrite hi ht).mem hchanged
  | command ht =>
    obtain ⟨cmdIdx, cmdArg, hw⟩ := sendCommand_opcodeWrite ht
    exact absurd hw.mem hchanged
  | write => exact absurd (by simp) hchanged
  | badAccess => exact absurd (by simp) hchanged
  | @store addr width v rest _ hq hw ht =>
    refine .inl ⟨addr, width, v, rest, hq, hw, ?_⟩
    unfold memStore at ht
    split at ht
    · cases ht
    · split at ht
      · cases ht
        by_contra ha
        refine hne (storeBytes_read_other _ _ _ _ ?_)
        have hlen : ((wordBytes v).take width.bytes).length ≤ width.bytes := List.length_take_le ..
        omega
      · cases ht
  | host => exact absurd rfl hchanged
  | reset => exact absurd rfl hchanged

end Sys2Proof.Proofs
end

section
/-! PROOFS. The claims about an Engine step that follow from what it can do: the results appear at the finish, every
finish is one, and the operand registers do not reach a running operation. -/
namespace Sys2Proof.Proofs
open Sys2Proof.Machine Sys2Proof.Laws

/-! ### Results and finishes -/

/-- A step after which the operation goes on changes no result but DRESP in the wait for the data response. -/
theorem Absorbed.results {q t : State} (h : Absorbed q t) (hb : t.cont ≠ .idle) :
    t.resp0 = q.resp0 ∧ t.resp1 = q.resp1 ∧ t.data = q.data ∧ t.status.done = q.status.done ∧
    t.status.err = q.status.err ∧ t.status.errCode = q.status.errCode ∧
    (t.dresp ≠ q.dresp → ∃ k, q.cont = .writeResp k) := by
  cases h with
  | goesOn _ _ hdresp _ _ => exact ⟨rfl, rfl, rfl, rfl, rfl, rfl, fun hne => hdresp.resolve_left hne⟩
  | finished => exact absurd rfl hb
  | failed => exact absurd rfl hb

/-- Settles O51: neither the set-up nor the exchange writes a result. -/
theorem resultsAtFinish : Obligations.ResultsAtFinish := by
  unfold Obligations.ResultsAtFinish
  intro s t hb ht hgoes
  obtain ⟨_, _, _, _, _, _, hp, -, -⟩ := enginePrepare_eq s
  obtain ⟨-, ha⟩ | ⟨tx, -, ha⟩ := engineStep_absorbed hb ht
  · simpa [hp] using ha.results hgoes
  · simpa [hp] using ha.results hgoes

/-- INIT has reached a card state other than Ready, or has yet to start. -/
theorem Cont.stage_of_runsInit {c : Cont} (h : c.runsInit = true) :
    c = .initClocks 0 ∨ ∃ cs, c.stage? = some cs ∧ cs ≠ .ready := by
  have command : ∀ cmd : InitCmd, cmd.stage ≠ .ready := by
    intro cmd
    cases cmd <;> decide
  have caller : ∀ caller : Caller, caller.isInit = true → ∃ cs, caller.stage? = some cs ∧ cs ≠ .ready := by
    intro caller hcaller
    cases caller with
    | cmdSend => cases hcaller
    | init cmd pend => exact ⟨_, rfl, command cmd⟩
  cases c
  case initClocks k =>
    cases k with
    | zero => exact .inl rfl
    | succ k => exact .inr ⟨_, rfl, nofun⟩
  case speedUp => exact .inr ⟨_, rfl, nofun⟩
  case initTrail cmd _ _ _ _ => exact .inr ⟨_, rfl, command cmd⟩
  case frame caller' _ | stuff caller' | r1Poll caller' _ | trailing caller' _ _ _ => exact .inr (caller _ h)
  case busy u k =>
    cases u
    case txn caller' _ => exact .inr (caller _ h)
    all_goals cases h
  all_goals cases h

/-- No Ready card is INIT's once its step is set up. -/
theorem prepare_not_ready {s : State} (h : s.Inv) (hb : s.cont ≠ .idle) (hop : s.lat.op = initCode) :
    (enginePrepare s).status.cardState ≠ .ready := by
  obtain ⟨_, _, _, _, _, _, hp, -, hcard⟩ := enginePrepare_eq s
  rw [hp, hcard]
  split
  · nofun
  · next hstart =>
    obtain hstart' | ⟨cs, hcs, hne⟩ := Cont.stage_of_runsInit ((h.opInit hb).mp hop)
    · exact absurd hstart' hstart
    · rwa [h.stage cs hcs]

/-- A step after which no operation runs has finished one. -/
theorem Absorbed.finish {q t : State} (h : Absorbed q t) (hidle : t.cont = .idle) (hf : q.status.fault = false)
    (hready : q.lat.op = initCode → q.status.cardState ≠ .ready) :
    t.status.done = true ∧ t.status.xfer = false ∧ t.status.poll = false ∧ t.bus.width32 = false ∧
    t.status.fault = false ∧
    (t.status.err = true → t.bus.cs = false ∧ t.status.cardState ≠ .ready ∧ t.status.errCode ≠ .none) ∧
    (t.status.err = false → t.status.errCode = .none) := by
  cases h with
  | goesOn hc => exact absurd hidle hc
  | finished => exact ⟨rfl, rfl, rfl, rfl, hf, nofun, fun _ => rfl⟩
  | failed hcode _ hbus =>
    rw [finishErr, setCs_false]
    refine ⟨rfl, rfl, rfl, rfl, hf, fun _ => ⟨rfl, ?_, hcode⟩, nofun⟩
    obtain ⟨-, -, rfl⟩ | ⟨-, -, -, rfl⟩ := hbus
    · simp only
      split
      · nofun
      · next hne => exact fun hcard => hne ⟨hcard, fun hop => hready hop hcard⟩
    · simp

/-- Settles O52: by what a step can do, with no Ready card in INIT's steps. -/
theorem engineFinish : Obligations.EngineFinish := by
  unfold Obligations.EngineFinish
  intro s t h hb ht hidle
  have hf := (mid_prepare h hb).base.nofault
  have hready := prepare_not_ready h hb
  have hbusy : t.busy = false := (not_busy_iff t).mpr hidle
  obtain ⟨-, ha⟩ | ⟨tx, -, ha⟩ := engineStep_absorbed hb ht
  all_goals
    obtain ⟨hdone, hxfer, hpoll, hwidth, hfault, herr, hok⟩ :=
      ha.finish hidle (by simpa using hf) (by simpa using hready)
    exact ⟨hdone, hxfer, hpoll, hwidth, hbusy, hfault, herr, hok⟩

/-! ### The operand registers -/

/-- The state with its operand registers replaced. -/
def State.withOperands (config : ConfigReg) (cmdIdx : CmdIdxReg) (cmdArg data bufAddr : Word) (s : State) : State :=
  { s with config := config, cmdIdx := cmdIdx, cmdArg := cmdArg, data := data, bufAddr := bufAddr }

section
variable (config : ConfigReg) (cmdIdx : CmdIdxReg) (cmdArg data bufAddr : Word)

/-- The error finish does not read the operand registers (R319). -/
theorem finishErr_withOperands (code : ErrCode) (q : State) :
    finishErr code (State.withOperands config cmdIdx cmdArg data bufAddr q) =
      State.withOperands config cmdIdx cmdArg data bufAddr (finishErr code q) := by
  rw [finishErr, finishErr, setCs_false, setCs_false]
  rfl

/-- A transaction's return does not read the operand registers. -/
theorem txnReturn_withOperands (c : Caller) (st : TxnStatus) (r1 : Byte) (tail : Option Word) (q : State) :
    txnReturn c st r1 tail (State.withOperands config cmdIdx cmdArg data bufAddr q) =
      State.withOperands config cmdIdx cmdArg data bufAddr (txnReturn c st r1 tail q) := by
  cases c with
  | init cmd pend => rfl
  | cmdSend =>
    cases st with
    | ok => rfl
    | timeout | rerror | busyTo =>
      exact finishErr_withOperands config cmdIdx cmdArg data bufAddr _ { q with resp0 := r1 }

/-- What follows R1 does not read the operand registers. -/
theorem txnAfterR1_withOperands (c : Caller) (r1 : Byte) (q : State) :
    txnAfterR1 c r1 (State.withOperands config cmdIdx cmdArg data bufAddr q) =
      State.withOperands config cmdIdx cmdArg data bufAddr (txnAfterR1 c r1 q) := by
  unfold txnAfterR1
  split
  · exact txnReturn_withOperands ..
  · rw [show (State.withOperands config cmdIdx cmdArg data bufAddr q).lat = q.lat from rfl]
    split
    · exact txnReturn_withOperands ..
    all_goals rfl

/-- The end of a busy poll does not read the operand registers. -/
theorem busyReturn_withOperands (u : BusyUser) (ready : Bool) (q : State) :
    busyReturn u ready (State.withOperands config cmdIdx cmdArg data bufAddr q) =
      State.withOperands config cmdIdx cmdArg data bufAddr (busyReturn u ready q) := by
  cases u with
  | txn c r1 =>
    exact txnReturn_withOperands config cmdIdx cmdArg data bufAddr _ _ _ _
      { q with status := { q.status with poll := false } }
  | writeBlock | stopTran | busyWait =>
    cases ready with
    | true => rfl
    | false =>
      exact finishErr_withOperands config cmdIdx cmdArg data bufAddr _
        { q with status := { q.status with poll := false } }

/-- INIT's failure does not read the operand registers. -/
theorem initFail_withOperands (code : ErrCode) (pend : Pending) (q : State) :
    initFail code pend (State.withOperands config cmdIdx cmdArg data bufAddr q) =
      State.withOperands config cmdIdx cmdArg data bufAddr (initFail code pend q) := by
  rw [initFail, initFail, ← finishErr_withOperands, resetBus_eq, resetBus_eq]
  rfl

/-- The end of an attempt of INIT does not read the operand registers. -/
theorem initRetry_withOperands (limit : Nat) (code : ErrCode) (cmd : InitCmd) (pend : Pending) (q : State) :
    initRetry limit code cmd pend (State.withOperands config cmdIdx cmdArg data bufAddr q) =
      State.withOperands config cmdIdx cmdArg data bufAddr (initRetry limit code cmd pend q) := by
  unfold initRetry
  rw [show (State.withOperands config cmdIdx cmdArg data bufAddr q).init = q.init from rfl]
  split
  · exact initFail_withOperands ..
  · rfl

/-- What a phase of INIT concludes does not read the operand registers. -/
theorem initConclude_withOperands (cmd : InitCmd) (st : TxnStatus) (r1 : Byte) (tail : Option Word) (pend : Pending)
    (q : State) : initConclude cmd st r1 tail pend (State.withOperands config cmdIdx cmdArg data bufAddr q) =
      State.withOperands config cmdIdx cmdArg data bufAddr (initConclude cmd st r1 tail pend q) := by
  have hparams : (State.withOperands config cmdIdx cmdArg data bufAddr q).params = q.params := rfl
  cases cmd <;> simp only [initConclude, hparams]
  case goIdle =>
    rw [show (State.withOperands config cmdIdx cmdArg data bufAddr q).init = q.init from rfl]
    generalize (if st = .timeout then q.init.absent + 1 else 0) = absent
    split
    · rfl
    · split
      · exact initFail_withOperands config cmdIdx cmdArg data bufAddr _ _
          { q with init := { q.init with absent := absent } }
      · exact initRetry_withOperands config cmdIdx cmdArg data bufAddr _ _ _ _
          { q with init := { q.init with absent := absent } }
  case crcOn =>
    split
    · rfl
    · exact initFail_withOperands ..
  all_goals
    split
    · rfl
    · exact initRetry_withOperands ..

/-- What follows the exchange of a step does not read the operand registers, and writes none but DATA. -/
theorem engineAbsorb_withOperands (tx rx : Byte) {q : State} (hd : ¬Cont.mayWriteData q.cont) :
    engineAbsorb tx rx (State.withOperands config cmdIdx cmdArg data bufAddr q) =
      State.withOperands config cmdIdx cmdArg data bufAddr (engineAbsorb tx rx q) := by
  have hcont : (State.withOperands config cmdIdx cmdArg data bufAddr q).cont = q.cont := rfl
  have hlat : (State.withOperands config cmdIdx cmdArg data bufAddr q).lat = q.lat := rfl
  have hparams : (State.withOperands config cmdIdx cmdArg data bufAddr q).params = q.params := rfl
  cases hc : q.cont <;> simp only [engineAbsorb, hcont, hlat, hparams, hc]
  case xferByte | tokenWait | readCrcLo => exact absurd (by simp [Cont.mayWriteData, hc]) hd
  case xferWord k got =>
    split
    · rfl
    · exact absurd (.inr (.inl ⟨got, by rw [hc]; congr; omega⟩)) hd
  case idleClocks => split <;> rfl
  case frame =>
    split
    · rfl
    · split <;> rfl
  case r1Poll =>
    split
    · exact txnAfterR1_withOperands ..
    · split
      · exact txnReturn_withOperands ..
      · rfl
  case trailing =>
    split
    · exact txnReturn_withOperands ..
    · split
      · rfl
      · exact txnReturn_withOperands ..
  case initTrail => exact initConclude_withOperands ..
  case readData =>
    unfold afterDataByte
    split <;> rfl
  case writeData =>
    rw [countEngineDraw_eq, countEngineDraw_eq]
    unfold afterDataByte
    split <;> rfl
  case writeResp =>
    split
    · split
      · rfl
      · rw [← hc]
        exact finishErr_withOperands config cmdIdx cmdArg data bufAddr _ { q with dresp := rx }
    · split
      · rw [← hc]
        exact finishErr_withOperands config cmdIdx cmdArg data bufAddr _ { q with dresp := fill }
      · rfl
  case busy =>
    split
    · exact busyReturn_withOperands ..
    · split
      · exact busyReturn_withOperands ..
      · rfl
  case initClocks => split <;> rfl
  all_goals rfl

/-- A step that writes DATA is at a program point that may. -/
theorem mayWriteData_of_writesData {q t : State} (h : writesData q t) : Cont.mayWriteData q.cont := by
  obtain hc | hc | ⟨k, hc, -⟩ | hc := h
  · exact .inl hc
  · exact .inr (.inl hc)
  · exact .inr (.inr (.inl ⟨k, hc⟩))
  · exact .inr (.inr (.inr hc))

/-- The operand registers once q's step has reached t, where d stands for DATA: what it held, or what the step wrote. -/
def DataAfter (data : Word) (q t : State) (d : Word) : Prop :=
  (d = data ∧ ¬writesData q t) ∨ (d = t.data ∧ writesData q t)

/-- What follows the exchange of a step does not read the operand registers and may write DATA. -/
theorem engineAbsorb_operands (tx rx : Byte) (q : State) :
    ∃ d, engineAbsorb tx rx (State.withOperands config cmdIdx cmdArg data bufAddr q) =
        State.withOperands config cmdIdx cmdArg d bufAddr (engineAbsorb tx rx q) ∧
      DataAfter data q (engineAbsorb tx rx q) d := by
  by_cases hd : Cont.mayWriteData q.cont
  swap
  · exact ⟨data, engineAbsorb_withOperands config cmdIdx cmdArg data bufAddr tx rx hd,
      .inl ⟨rfl, fun hw => hd (mayWriteData_of_writesData hw)⟩⟩
  have hcont : (State.withOperands config cmdIdx cmdArg data bufAddr q).cont = q.cont := rfl
  have hparams : (State.withOperands config cmdIdx cmdArg data bufAddr q).params = q.params := rfl
  have hcrc : (State.withOperands config cmdIdx cmdArg data bufAddr q).crc16 = q.crc16 := rfl
  have fails : ∀ code b, tokenFail code b (State.withOperands config cmdIdx cmdArg data bufAddr q) =
      State.withOperands config cmdIdx cmdArg (b.setWidth 32) bufAddr (tokenFail code b q) := fun code b =>
    finishErr_withOperands config cmdIdx cmdArg (b.setWidth 32) bufAddr code
      { q with status := { q.status with xfer := false }, data := b.setWidth 32 }
  obtain hc | ⟨got, hc⟩ | ⟨k, hc⟩ | ⟨hi, hc⟩ := hd <;>
    simp only [engineAbsorb, hcont, hparams, hcrc, hc]
  · exact ⟨_, rfl, .inr ⟨rfl, .inl hc⟩⟩
  · exact ⟨_, rfl, .inr ⟨rfl, .inr (.inl ⟨got, hc⟩)⟩⟩
  · have goes : ∀ c, c ≠ .idle → DataAfter data q { q with cont := c } data := fun c hne =>
      .inl ⟨rfl, by simp [writesData, hc, hne]⟩
    have ends : ∀ code b, DataAfter data q (tokenFail code b q) (b.setWidth 32) := fun code b =>
      .inr ⟨by simp [tokenFail], .inr (.inr (.inl ⟨k, hc, rfl⟩))⟩
    split
    · exact ⟨data, rfl, goes _ nofun⟩
    · split
      · exact ⟨_, fails .., ends ..⟩
      · split
        · exact ⟨_, fails .., ends ..⟩
        · exact ⟨data, rfl, goes _ nofun⟩
  · split
    · exact ⟨_, rfl, .inr ⟨rfl, .inr (.inr (.inr ⟨hi, hc⟩))⟩⟩
    · rw [← hc]
      exact ⟨(hi ++ rx).setWidth 32, finishErr_withOperands config cmdIdx cmdArg _ bufAddr _
        { q with data := (hi ++ rx).setWidth 32 }, .inr ⟨by simp, .inr (.inr (.inr ⟨hi, hc⟩))⟩⟩

/-- A step with no exchange does not read the operand registers. -/
theorem engineQuiet_withOperands (q : State) :
    engineQuiet (State.withOperands config cmdIdx cmdArg data bufAddr q) =
      State.withOperands config cmdIdx cmdArg data bufAddr (engineQuiet q) := by
  unfold engineQuiet
  rw [show (State.withOperands config cmdIdx cmdArg data bufAddr q).cont = q.cont from rfl]
  split <;> rfl

/-- An exchange does not read the operand registers. -/
theorem exchange_withOperands (tx : Byte) (q : State) :
    exchange tx (State.withOperands config cmdIdx cmdArg data bufAddr q) =
      ((exchange tx q).1, State.withOperands config cmdIdx cmdArg data bufAddr (exchange tx q).2) := by
  unfold exchange cardAnswer
  rw [show (State.withOperands config cmdIdx cmdArg data bufAddr q).card = q.card from rfl]
  cases q.card <;> rfl

/-- An Engine step does not read the operand registers and may write DATA (R50). -/
theorem engineStep_operands {s t : State} (hb : s.cont ≠ .idle) (ht : engineStep s = .next t) :
    ∃ d, engineStep (State.withOperands config cmdIdx cmdArg data bufAddr s) =
        .next (State.withOperands config cmdIdx cmdArg d bufAddr t) ∧ DataAfter data s t d := by
  have hprepare : enginePrepare (State.withOperands config cmdIdx cmdArg data bufAddr s) =
      State.withOperands config cmdIdx cmdArg data bufAddr (enginePrepare s) := by
    have h := enginePrepare_withInputs config cmdIdx cmdArg data bufAddr s.hostq s.card s
    simp only [State.withInputs] at h
    rw [State.withOperands, h, State.withOperands]
    simp only [← enginePrepare_hostq s, ← enginePrepare_card s]
  have htx : engineTx (State.withOperands config cmdIdx cmdArg data bufAddr (enginePrepare s)) =
      engineTx (enginePrepare s) := rfl
  obtain ⟨hidle, -⟩ | ⟨-, hquiet, rfl⟩ | ⟨-, tx, hsend, hf, hbus, rfl⟩ := engineStep_cases ht
  · exact absurd hidle hb
  · refine ⟨data, ?_, .inl ⟨rfl, ?_⟩⟩
    · rw [engineStep_quiet (by exact hb) (by rw [hprepare, htx]; exact hquiet), hprepare]
      exact congrArg Host.Outcome.next (engineQuiet_withOperands ..)
    · obtain hc | hc | ⟨p, hc⟩ := engineTx_none hquiet
      · exact absurd hc hb
      all_goals simp [writesData, hc]
  · rw [engineStep_exchange (by exact hb) (by rw [hprepare, htx]; exact hsend) (by rw [hprepare]; exact hf)
      (by rw [hprepare]; exact hbus), hprepare, exchange_withOperands]
    obtain ⟨d, habsorb, hd⟩ := engineAbsorb_operands config cmdIdx cmdArg data bufAddr tx
      (exchange tx (enginePrepare s)).1 (exchange tx (enginePrepare s)).2
    refine ⟨d, congrArg Host.Outcome.next habsorb, ?_⟩
    simpa [DataAfter, writesData] using hd
end

/-- Settles O50: a Host write sets one operand register, and an Engine step reads none and writes none but DATA. -/
theorem operandsLatched : Obligations.OperandsLatched := by
  unfold Obligations.OperandsLatched
  intro s t v hf hft hb ht
  obtain ⟨-, hconfig, hidx, harg, hbuf, -⟩ := engineStep_keeps ht
  have operands : ∀ config cmdIdx cmdArg bufAddr,
      engineStep (State.withOperands config cmdIdx cmdArg s.data bufAddr s) =
        .next (State.withOperands config cmdIdx cmdArg t.data bufAddr t) := by
    intro config cmdIdx cmdArg bufAddr
    obtain ⟨d, hstep, ⟨rfl, hw⟩ | ⟨rfl, hw⟩⟩ := engineStep_operands config cmdIdx cmdArg s.data bufAddr hb ht
    · obtain ⟨d', hsame, ⟨rfl, -⟩ | ⟨-, hw'⟩⟩ := engineStep_operands s.config s.cmdIdx s.cmdArg s.data s.bufAddr hb ht
      · have heq := Host.Outcome.next.inj (ht.symm.trans hsame)
        have hdata : t.data = s.data := (congrArg State.data heq :)
        rw [hstep, hdata]
      · exact absurd hw' hw
    · exact hstep
  have written : ∀ d, State.withOperands s.config s.cmdIdx s.cmdArg d s.bufAddr t = { t with data := d } := by
    intro d
    rw [State.withOperands, ← hconfig, ← hidx, ← harg, ← hbuf]
  obtain ⟨d, hstep, hd⟩ := engineStep_operands s.config s.cmdIdx s.cmdArg v s.bufAddr hb ht
  rw [written] at hstep
  refine ⟨?_, fun hw => ?_, fun hw => ?_⟩
  · rintro off (rfl | rfl | rfl | rfl)
    · rw [regWrite_config v hf, regWrite_config v hft]
      exact (operands (ConfigReg.ofWord v) s.cmdIdx s.cmdArg s.bufAddr).trans
        (by rw [State.withOperands, ← hidx, ← harg, ← hbuf])
    · rw [regWrite_cmdIdx v hf, regWrite_cmdIdx v hft]
      exact (operands s.config (CmdIdxReg.ofWord v) s.cmdArg s.bufAddr).trans
        (by rw [State.withOperands, ← hconfig, ← harg, ← hbuf])
    · rw [regWrite_cmdArg v hf, regWrite_cmdArg v hft]
      exact (operands s.config s.cmdIdx v s.bufAddr).trans (by rw [State.withOperands, ← hconfig, ← hidx, ← hbuf])
    · rw [regWrite_bufAddr v hf, regWrite_bufAddr v hft]
      exact (operands s.config s.cmdIdx s.cmdArg v).trans (by rw [State.withOperands, ← hconfig, ← hidx, ← harg])
  · obtain ⟨-, hnot⟩ | ⟨rfl, -⟩ := hd
    · exact absurd hw hnot
    · rw [regWrite_data v hf]
      exact hstep
  · obtain ⟨rfl, -⟩ | ⟨-, hw'⟩ := hd
    · rw [regWrite_data d hf, regWrite_data d hft]
      exact hstep
    · exact absurd hw' hw

end Sys2Proof.Proofs
end

section
/-! PROOFS. Every operation ends within its bound (R372): each Engine step takes one of the steps that are left. -/
namespace Sys2Proof.Proofs
open Sys2Proof.Machine Sys2Proof.Laws

/-- The steps that are left, the running one included, once the step's set-up has run: a frame's first byte has counted
its attempt. -/
def stepsLeftSetUp (q : State) : Nat :=
  match q.cont with
  | .frame c k =>
    (6 - k.val) + (if c.idx q.lat = 12 then 1 else 0) + q.params.ncrLimit + tailCost q.params (c.rtype q.lat)
      + costReturn q.params q.init.attempt c
  | _ => stepsLeft q

/-- The steps that are left are said by the program point, the latch, the parameters and INIT's counters. -/
theorem stepsLeftSetUp_congr {q q' : State} (hc : q'.cont = q.cont) (hl : q'.lat = q.lat) (hp : q'.params = q.params)
    (hi : q'.init = q.init) : stepsLeftSetUp q' = stepsLeftSetUp q := by
  simp only [stepsLeftSetUp, stepsLeft, hc, hl, hp, hi]

/-- INIT's counters change at a frame's first byte, at INIT's start and in phase f alone. -/
theorem enginePrepare_init {s : State} (hframe : ∀ c, s.cont ≠ .frame c 0) (hclocks : s.cont ≠ .initClocks 0)
    (hsp : ∀ p, s.cont ≠ .speedUp p) : (enginePrepare s).init = s.init := by
  unfold enginePrepare
  split
  case h_3 c k hc =>
    split
    · exact absurd (by simp_all) (hframe c)
    · rfl
  case h_8 k hc =>
    split
    · exact absurd (by simp_all) hclocks
    · rfl
  case h_9 p hc => exact absurd hc (hsp p)
  case h_4 => simp
  case h_2 | h_5 | h_6 => split <;> rfl
  all_goals rfl

/-- The set-up of a step takes none of the steps that are left. -/
theorem stepsLeftSetUp_prepare {s : State} (hsp : ∀ p, s.cont ≠ .speedUp p) :
    stepsLeftSetUp (enginePrepare s) = stepsLeft s := by
  by_cases hclocks : s.cont = .initClocks 0
  · simp [stepsLeftSetUp, stepsLeft, hclocks]
  by_cases hframe : ∃ c, s.cont = .frame c 0
  · obtain ⟨c, hc⟩ := hframe
    cases c <;>
      simp [stepsLeftSetUp, stepsLeft, enginePrepare, hc, txnStart_eq, initAtFrame, costReturn, costReturnFresh]
  · have hframe : ∀ c, s.cont ≠ .frame c 0 := fun c hc => hframe ⟨c, hc⟩
    rw [stepsLeftSetUp_congr (q := s) (by simp) (by simp) (by simp) (enginePrepare_init hframe hclocks hsp)]
    cases hc : s.cont <;> simp only [stepsLeftSetUp, hc]
    case frame c k =>
      have hk : k ≠ 0 := by
        rintro rfl
        exact hframe c hc
      simp [stepsLeft, hc, hk]

/-- After R1 the response type says how many steps are left (R112). -/
theorem stepsLeft_txnAfterR1 (c : Caller) (r1 : Byte) {q : State} (h : Dom q.params) :
    stepsLeft (txnAfterR1 c r1 q) ≤ tailCost q.params (c.rtype q.lat) + costReturn q.params q.init.attempt c := by
  have hbusy : 0 < busyBound q.params := Nat.add_pos_left h.bf _
  have hreturn := fun st => stepsLeft_txnReturn c st r1 none q
  unfold txnAfterR1
  split
  · have := hreturn .rerror
    omega
  · cases hr : c.rtype q.lat <;> simp only [tailCost]
    case r1 =>
      have := hreturn .ok
      omega
    case r1b =>
      simp only [stepsLeft]
      omega
    case r3r7 | r2 => simp [stepsLeft, hr]

/-- After INIT's idle clocks the cost of CMD0 and of what follows is left. -/
theorem stepsLeft_initEnter_goIdle (p : Pending) {q : State} (h : Dom q.params) :
    stepsLeft (initEnter .goIdle p q) ≤ costB q.params 0 := by
  rw [stepsLeft_initFrame .goIdle p (initEnter .goIdle p q) rfl]
  have hattempt := attempts_step (costT1 q.params) h.c0
  have hT1 : costT1 q.params = 6 + q.params.ncrLimit + 1 := rfl
  simp only [initEnter, InitCmd.countsAttempt, InitCmd.rtype, tailCost, costAfter, costB, if_true, Nat.zero_add] at *
  omega

/-- After INIT's phase f the cost of CMD58 and of what follows is left. -/
theorem stepsLeft_initEnter_readOcr (p : Pending) {q : State} (h : Dom q.params) :
    stepsLeft (initEnter .readOcr p q) + 1 ≤ costF q.params := by
  rw [stepsLeft_initFrame .readOcr p (initEnter .readOcr p q) rfl]
  have hattempt := attempts_step (costT7 q.params) h.c58
  have hT1 : costT1 q.params = 6 + q.params.ncrLimit + 1 := rfl
  have hT7 : costT7 q.params = costT1 q.params + 4 := rfl
  simp only [initEnter, InitCmd.countsAttempt, InitCmd.rtype, tailCost, costAfter, costF, costG, if_true,
    Nat.zero_add] at *
  omega

/-- What follows the exchange of a step leaves one step less. -/
theorem stepsLeft_engineAbsorb (tx rx : Byte) {q : State} (h : Dom q.params) (hb : q.cont ≠ .idle)
    (hsp : ∀ p, q.cont ≠ .speedUp p) : stepsLeft (engineAbsorb tx rx q) + 1 ≤ stepsLeftSetUp q := by
  have hbusy : 0 < busyBound q.params := Nat.add_pos_left h.bf _
  have hncr := h.ncr
  have hdr := h.dr
  have hq := stepsLeft.eq_1 q
  cases hc : q.cont <;> simp only [engineAbsorb, stepsLeftSetUp, hc] at hq ⊢
  case idle => exact absurd hc hb
  case speedUp p => exact absurd hc (hsp p)
  case frame c k =>
    split
    · simp only [stepsLeft, Nat.succ_ne_zero, if_false]
      omega
    · split <;> simp only [stepsLeft, *] <;> omega
  case busy u k =>
    cases u <;> simp only at hq <;> rw [hq]
    case txn c r1 =>
      have hready := stepsLeft_busyReturn c r1 true q
      have hlate := stepsLeft_busyReturn c r1 false q
      split
      · omega
      · split
        · omega
        · simp only [stepsLeft]
          omega
    all_goals
      split
      · simp [busyReturn]
      · split
        · simp [busyReturn]
        · simp only [stepsLeft]
          omega
  all_goals rw [hq]
  case xferByte => simp
  case stuff | readCrcHi | writeToken | writeCrcHi | writeCrcLo | stopToken | stopGap =>
    simp only [stepsLeft]
    omega
  case idleClocks =>
    split
    · simp
    · simp only [stepsLeft]
      omega
  case xferWord k got =>
    split
    · simp only [stepsLeft]
      omega
    · simp only [stepsLeft_finishOk]
      omega
  case r1Poll c k =>
    have hafter := stepsLeft_txnAfterR1 c rx h
    have hreturn := stepsLeft_txnReturn c .timeout rx none q
    split
    · omega
    · split
      · omega
      · simp only [stepsLeft]
        omega
  case trailing c r1 k got =>
    have hreturn := stepsLeft_txnReturn c .ok r1 (some (shiftInByte got rx)) q
    cases hr : c.rtype q.lat <;> simp only [lastTrailing, decide_eq_true_eq, if_true, reduceCtorEq, if_false]
    case r3r7 =>
      split
      · omega
      · split
        · simp only [stepsLeft, hr, if_true]
          omega
        · omega
    all_goals omega
  case initTrail cmd st r1 tail p =>
    have hconclude := stepsLeft_initConclude cmd st r1 tail p q h
    omega
  case tokenWait k =>
    split
    · simp only [stepsLeft]
      omega
    · split
      · simp [tokenFail]
      · split
        · simp [tokenFail]
        · simp only [stepsLeft]
          omega
  case readData i | writeData i =>
    unfold afterDataByte
    split <;> simp only [stepsLeft, releaseBuffer, accumulate_params, countEngineDraw_params] <;>
      omega
  case readCrcLo => split <;> simp
  case writeResp =>
    split
    · split
      · simp only [stepsLeft]
        omega
      · simp only [stepsLeft_finishErr]
        omega
    · split
      · simp only [stepsLeft_finishErr]
        omega
      · simp only [stepsLeft]
        omega
  case initClocks k =>
    have henter := stepsLeft_initEnter_goIdle { r0 := none, r1 := none } h
    split
    · omega
    · simp only [stepsLeft]
      omega

/-- An Engine step takes one of the steps that are left. -/
theorem stepsLeft_engineStep {s t : State} (h : s.Inv) (hb : s.cont ≠ .idle) (ht : engineStep s = .next t) :
    stepsLeft t + 1 ≤ stepsLeft s := by
  have hdom := dom_of_inDomain h.domain
  obtain ⟨hc, -⟩ | ⟨-, htx, rfl⟩ | ⟨-, tx, htx, -, -, rfl⟩ := engineStep_cases ht
  · exact absurd hc hb
  · obtain hc | hc | ⟨p, hc⟩ := engineTx_none htx
    · exact absurd hc hb
    · simp only [engineQuiet, enginePrepare_cont, hc, stepsLeft_finishOk]
      simp [stepsLeft, hc]
    · have henter := stepsLeft_initEnter_readOcr p (q := enginePrepare s) (by rwa [enginePrepare_params])
      simpa [engineQuiet, stepsLeft, hc] using henter
  · have hsp : ∀ p, s.cont ≠ .speedUp p := by
      intro p hc
      simp [engineTx, hc] at htx
    have hset := stepsLeftSetUp_prepare hsp
    rw [← stepsLeftSetUp_congr (q' := (exchange tx (enginePrepare s)).2) (by simp) (by simp) (by simp)
      (by simp)] at hset
    rw [← hset]
    exact stepsLeft_engineAbsorb tx _ (by simpa using hdom) (by simpa using hb) (by simpa using hsp)

/-- In a state of the invariant the Engine reaches the finish within the steps that are left. -/
theorem engineRun_finishes (n : Nat) : ∀ s : State, s.Inv → s.cont ≠ .idle → stepsLeft s ≤ n →
    ∃ m u, m ≤ n ∧ engineRun m s = .next u ∧ u.cont = .idle ∧ u.status.done = true := by
  induction n with
  | zero =>
    intro s h hb hn
    obtain ⟨t, ht⟩ := noModelFault s h
    have hless := stepsLeft_engineStep h hb ht
    omega
  | succ n ih =>
    intro s h hb hn
    obtain ⟨t, ht⟩ := noModelFault s h
    have hless := stepsLeft_engineStep h hb ht
    by_cases hc : t.cont = .idle
    · exact ⟨1, t, by omega, by rw [engineRun_one, ht], hc, (engineStep_goesOnOrFinishes hb ht).done hc⟩
    · obtain ⟨m, u, hm, hrun, hidle, hdone⟩ := ih t (inv_engineStep h ht) hc (by omega)
      exact ⟨m + 1, u, by omega, by rw [engineRun_succ ht, hrun], hidle, hdone⟩

/-- An operation that has passed its checks is done, or has at most its bound's steps left (R372). -/
theorem stepsLeft_launchGo {i : Instr} {op : BitVec 5} {s : State} (hop : opCode i = some op) (h : Dom s.params) :
    ((launchGo i (latchOperands op s)).cont = .idle ∧ (launchGo i (latchOperands op s)).status.done = true) ∨
    ((launchGo i (latchOperands op s)).cont ≠ .idle ∧
      stepsLeft (launchGo i (latchOperands op s)) ≤ launchBound i s) := by
  have hncr := h.ncr
  have hbusy : 0 < busyBound s.params := Nat.add_pos_left h.bf _
  have htoken := h.tk
  have hbound : busyBound s.params = s.params.busyFastSamples + s.params.busyPollLimit := rfl
  cases i <;> cases hop
  case setSpeed =>
    simp only [launchGo]
    exact .inl ⟨rfl, rfl⟩
  case nop | busEnable | busDisable | csAssert | csRelease | crc7Clear | crc7Feed | crc16Clear | crc16Feed =>
    exact .inl ⟨rfl, rfl⟩
  all_goals
    refine .inr ⟨nofun, ?_⟩
    simp only [launchGo, stepsLeft, launchBound, armData, latchOperands_params]
  case idleClocks =>
    have hbyte := (latchOperands 0x06 s).lat.byte.isLt
    omega
  case xferByte | xferWord | writeBlock | stopTran | busyWait | readBlock => omega
  case cmdSend =>
    have hrtype : Caller.cmdSend.rtype (latchOperands 0x0D s).lat = s.cmdIdx.rtype := rfl
    have hidx : Caller.cmdSend.idx (latchOperands 0x0D s).lat = s.cmdIdx.idx := rfl
    have hstuff : (if s.cmdIdx.idx = 12 then 1 else 0) ≤ 1 := by split <;> omega
    simp only [hrtype, hidx]
    cases hr : s.cmdIdx.rtype <;>
      simp only [tailCost, costReturnFresh, reduceCtorEq, if_true, if_false, Fin.val_zero] <;> omega
  case init =>
    have hclocks := h.a
    simp only [costB, costC, costD, costE, costF, costG, costH, costT7, costT1, Nat.sub_zero, Nat.mul_assoc]
    omega

/-- Settles O54: each Engine step takes one of the steps that are left, and a launch leaves at most its bound. -/
theorem terminates : Obligations.Terminates := by
  unfold Obligations.Terminates
  refine ⟨?_, ?_⟩
  · intro i s t h _ ha hop hok ht
    obtain ⟨op, hop⟩ := Option.isSome_iff_exists.mp hop
    rw [exec_launchOk hop ha hok] at ht
    cases ht
    obtain ⟨hidle, hdone⟩ | ⟨hb, hbound⟩ := stepsLeft_launchGo hop (dom_of_inDomain h.domain)
    · exact ⟨0, _, Nat.zero_le _, rfl, hidle, hdone⟩
    · obtain ⟨n, u, hn, hrun, hidle, hdone⟩ :=
        engineRun_finishes _ _ (inv_launchGo hop h ha.1 ha.2 (missing_launchRow hok)) hb le_rfl
      exact ⟨n, u, hn.trans hbound, hrun, hidle, hdone⟩
  · intro s hp
    refine ⟨fun hr => ?_, fun hr => ?_, ?_, ?_, ?_, ?_, ?_⟩ <;> simp only [launchBound, hp]
    · rw [if_neg hr]
      rfl
    · rw [if_pos hr]
      rfl
    all_goals rfl

end Sys2Proof.Proofs
end

section
/-! PROOFS. CMD_SEND from its launch to its finish, and the command-frame rows, which launch it (R106, R200 to R210). -/
namespace Sys2Proof.Proofs
open Sys2Proof.Machine Sys2Proof.Laws

/-! ### The launch and the command-frame rows -/

/-- CMD_SEND where its launch is accepted (R208, R314). -/
theorem exec_cmdSend {s : State} (ha : s.accepting) (hb : s.bus.busEn = true) :
    exec .cmdSend s = .next (s.launched 0x0D (.frame .cmdSend 0)) :=
  exec_launchOk rfl ha ⟨fun _ => hb, nofun, nofun, nofun⟩

/-- A command-frame row is a command the Host sends (R106, log 16). -/
theorem exec_frameRow {i : Instr} {idx : BitVec 6} {t : RespType} {arg : Word} {s : State}
    (h : frameFields s i = some (idx, t, arg)) : exec i s = sendCommand idx t arg s := by
  cases i <;> cases h <;> rfl

/-- Settles O29: the row is CMD_SEND with its fields in the registers, launched, refused or faulted as R316 says. -/
theorem frameRowsComplete : Obligations.FrameRowsComplete := by
  unfold Obligations.FrameRowsComplete
  intro s i idx t arg h
  rw [exec_frameRow h]
  refine ⟨fun ha hb => ?_, fun ha hb => ?_, fun hf hbusy => ?_, sendCommand_faulted⟩
  · rw [sendCommand_eq ha.1]
    exact exec_cmdSend (by exact ha) (by exact hb)
  · rw [sendCommand_eq ha.1]
    exact exec_busDisabled rfl (by exact ha) (by exact hb)
  · rw [sendCommand_eq hf, exec_operation rfl, launchGate, if_neg (by simp [hf]), if_pos (by exact hbusy)]

/-- Settles O30: CMD_SEND's frame is the row's encoding. -/
theorem frameRowsOnWire : Obligations.FrameRowsOnWire := by
  unfold Obligations.FrameRowsOnWire
  intro s i idx rt arg rxs rest h hwf ha hb hn hcard
  rw [exec_frameRow h, sendCommand_eq ha.1, encode_frameRow h hwf]
  exact ⟨_, _, exec_cmdSend (by exact ha) (by exact hb),
    run_frame_from_start (by exact ha.1) (by exact hb) rfl hn (by exact hcard), rfl, rfl, rfl, rfl⟩

/-! ### From the launch to R1 -/

/-- CMD_SEND with its frame, and the stuff byte after CMD12, on the wire: the poll for R1 is next. -/
def State.frameOnWire (skipped rest : List Byte) (s : State) : State :=
  { s.launched 0x0D (.r1Poll .cmdSend 0) with
    bus := { s.bus with cs := true }
    crc7 := frameCrc s.cmdIdx.idx s.cmdArg
    wire := s.wire ++ s.assertEvents ++ exchanges true s.bus (sentFrame s.cmdIdx.idx s.cmdArg) skipped
    card := rest }

/-- The stuff byte after CMD12 (R202). -/
theorem engineStep_stuff {c : Caller} {rx : Byte} {rest : List Byte} {s : State} (hf : s.status.fault = false)
    (hu : s.bus.busEn = true) (hc : s.cont = .stuff c) (hcard : s.card = rx :: rest) :
    engineStep s = .next { s with
      cont := .r1Poll c 0, card := rest, wire := s.wire ++ exchanges s.bus.cs s.bus [0xFF] [rx] } := by
  rw [engineStep_plain (tx := 0xFF) (by simp [hc]) (by simp [enginePrepare, hc]) (by simp [engineTx, hc, fill]) hf hu
    hcard]
  simp [engineAbsorb, hc]

/-- The frame and the stuff byte, whose answers are skipped (R201, R202). -/
theorem run_sentFrame {skipped rest : List Byte} {s : State} (ha : s.accepting) (hb : s.bus.busEn = true)
    (hn : skipped.length = (sentFrame s.cmdIdx.idx s.cmdArg).length) (hcard : s.card = skipped ++ rest) :
    engineRun skipped.length (s.launched 0x0D (.frame .cmdSend 0)) = .next (State.frameOnWire skipped rest s) := by
  have hidx : Caller.cmdSend.idx (s.launched 0x0D (.frame .cmdSend 0)).lat = s.cmdIdx.idx := rfl
  by_cases h12 : s.cmdIdx.idx = 12
  · have hlen : skipped.length = 7 := by simpa [sentFrame, h12] using hn
    obtain ⟨front, last, rfl⟩ := (List.eq_nil_or_concat' skipped).resolve_left (by rintro rfl; simp at hlen)
    have hfront : front.length = 6 := by simpa using hlen
    have hframe := run_frame_from_start (s := s.launched 0x0D (.frame .cmdSend 0)) (rest := last :: rest)
      (by exact ha.1)
      (by exact hb) rfl hfront (by simpa [State.launched] using hcard)
    rw [hidx, if_pos h12] at hframe
    rw [hlen, engineRun_add (n := 1) hframe, engineRun_one,
      engineStep_stuff (by exact ha.1) (by exact hb) rfl rfl]
    have hsent : exchanges true s.bus (sentFrame s.cmdIdx.idx s.cmdArg) (front ++ [last]) =
        exchanges true s.bus (frameBytes s.cmdIdx.idx s.cmdArg) front ++ exchanges true s.bus [0xFF] [last] := by
      rw [sentFrame, if_pos h12, exchanges_append _ _ _ _ _ _ (by simp [hfront])]
    rw [State.frameOnWire, hsent, ← List.append_assoc]
    rfl
  · rw [sentFrame, if_neg h12] at hn
    have hlen : skipped.length = 6 := by simpa using hn
    have hframe := run_frame_from_start (s := s.launched 0x0D (.frame .cmdSend 0)) (by exact ha.1) (by exact hb) rfl
      hlen
      (by exact hcard)
    rw [hidx, if_neg h12] at hframe
    rw [hlen, hframe, State.frameOnWire, sentFrame, if_neg h12, List.append_nil]
    rfl

/-- CMD_SEND with R1 received after the polls for it. -/
def State.polled (skipped polls rest : List Byte) (r1 : Byte) (s : State) : State :=
  { State.frameOnWire skipped rest s with
    cont := .r1Poll .cmdSend polls.length
    wire := (State.frameOnWire skipped rest s).wire ++
      exchanges true s.bus (fills (polls.length + 1)) (polls ++ [r1]) }

/-- CMD_SEND up to its R1 (R203). -/
theorem run_toR1 {skipped polls rest : List Byte} {r1 : Byte} {s : State} (ha : s.accepting) (hb : s.bus.busEn = true)
    (hn : skipped.length = (sentFrame s.cmdIdx.idx s.cmdArg).length) (hp : ∀ b ∈ polls, b.getLsbD 7 = true)
    (hlim : polls.length < s.params.ncrLimit) (hr : r1.getLsbD 7 = false)
    (hcard : s.card = skipped ++ (polls ++ r1 :: rest)) :
    engineRun (skipped.length + (polls.length + 1)) (s.launched 0x0D (.frame .cmdSend 0)) =
      .next (txnAfterR1 .cmdSend r1 (State.polled skipped polls rest r1 s)) := by
  rw [engineRun_add (run_sentFrame ha hb hn hcard)]
  exact run_r1Poll_found (s := State.frameOnWire skipped _ s) (by exact ha.1) (by exact hb) rfl hp hlim hr rfl

/-- The events of CMD_SEND's frame, its polls and the bytes after R1. -/
theorem exchanges_command {cs : Bool} {b : BusCtl} {sent skipped polls tail : List Byte} {r1 : Byte}
    (hn : skipped.length = sent.length) :
    exchanges cs b (sent ++ fills (polls.length + 1 + tail.length)) (skipped ++ polls ++ [r1] ++ tail) =
      exchanges cs b sent skipped ++ exchanges cs b (fills (polls.length + 1)) (polls ++ [r1]) ++
        exchanges cs b (fills tail.length) tail := by
  have hpolls : (polls ++ [r1]).length = polls.length + 1 := by simp
  rw [List.append_assoc, List.append_assoc, exchanges_append _ _ _ _ _ _ hn.symm, ← List.append_assoc polls,
    exchanges_fills_append _ _ hpolls, List.append_assoc]

/-! ### The end of CMD_SEND -/

/-- After a good R1 that is followed by busy bytes (R207). -/
theorem txnAfterR1_busy {c : Caller} {r1 : Byte} {s : State} (h : r1 &&& 0x7E = 0) (ht : c.rtype s.lat = .r1b) :
    txnAfterR1 c r1 s = { s with cont := .busy (.txn c r1) 0 } := by
  have hok : r1HasError r1 = false := by simpa [r1HasError] using h
  simp [txnAfterR1, hok, ht]

/-- The one byte after a good R1 of the response type R2 (R206). -/
theorem engineStep_trailing_r2 {c : Caller} {r1 rx : Byte} {rest : List Byte} {s : State} (hf : s.status.fault = false)
    (hu : s.bus.busEn = true) (hc : s.cont = .trailing c r1 0 0) (ht : c.rtype s.lat = .r2)
    (hcard : s.card = rx :: rest) :
    engineStep s = .next (txnReturn c .ok r1 (some (rx.setWidth 32)) { s with
      card := rest, wire := s.wire ++ exchanges s.bus.cs s.bus (fills 1) [rx] }) := by
  have hword : shiftInByte 0 rx = rx.setWidth 32 := by simp [shiftInByte]
  rw [engineStep_plain (tx := 0xFF) (by simp [hc]) (by simp [enginePrepare, hc]) (by simp [engineTx, hc, fill]) hf hu
    hcard, ← hword]
  simp [engineAbsorb, hc, ht, lastTrailing, fills]

/-- A good R1 and the bytes that its response type asks for finish CMD_SEND (R206 to R208). -/
theorem run_goodTail {tail rest : List Byte} {r1 : Byte} {q : State} (hf : q.status.fault = false)
    (hu : q.bus.busEn = true) (hgood : r1 &&& 0x7E = 0) (htail : goodTail q.params q.lat.rtype tail)
    (hcard : q.card = tail ++ rest) :
    engineRun tail.length (txnAfterR1 .cmdSend r1 q) = .next (finishOk { q with
      resp0 := r1, resp1 := tailWord q.lat.rtype tail q.resp1, card := rest
      wire := q.wire ++ exchanges q.bus.cs q.bus (fills tail.length) tail }) := by
  have hrtype : Caller.cmdSend.rtype q.lat = q.lat.rtype := rfl
  cases ht : q.lat.rtype <;> rw [ht] at hrtype htail
  case r1 =>
    obtain rfl : tail = [] := htail
    rw [txnAfterR1_good hgood hrtype]
    simp only [List.nil_append] at hcard
    simp [engineRun, txnReturn, cmdSendFinish, tailWord, ← hcard]
  case r1b =>
    obtain ⟨w, rfl, hw, hlim⟩ := htail
    rw [txnAfterR1_busy hgood hrtype, List.length_append]
    rw [List.append_assoc] at hcard
    exact run_busy_ready (s := { q with cont := .busy (.txn .cmdSend r1) 0 }) hf hu rfl hw hlim hcard
  case r3r7 =>
    obtain ⟨a, b, c, d, rfl⟩ : ∃ a b c d, tail = [a, b, c, d] := by
      match tail, htail with
      | [a, b, c, d], _ => exact ⟨a, b, c, d, rfl⟩
    rw [txnAfterR1_trailing hgood hrtype]
    exact run_trailing (s := { q with cont := .trailing .cmdSend r1 0 0 }) hf hu rfl hrtype hcard
  case r2 =>
    obtain ⟨a, rfl⟩ : ∃ a, tail = [a] := List.length_eq_one_iff.mp htail
    have hok : r1HasError r1 = false := by simpa [r1HasError] using hgood
    have hafter : txnAfterR1 .cmdSend r1 q = { q with cont := .trailing .cmdSend r1 0 0 } := by
      simp [txnAfterR1, hok, hrtype]
    rw [hafter]
    rw [List.length_singleton, engineRun_one]
    exact engineStep_trailing_r2 (s := { q with cont := .trailing .cmdSend r1 0 0 }) hf hu rfl hrtype hcard

/-- Settles O27: the launch, the frame, the polls and R1, and then what the response type asks for. -/
theorem cmdSendSucceeds : Obligations.CmdSendSucceeds := by
  unfold Obligations.CmdSendSucceeds
  intro s skipped polls tail rest r1 ha hb hn hp hlim hr hgood htail hcard
  have hcard' : s.card = skipped ++ (polls ++ r1 :: (tail ++ rest)) := by simpa using hcard
  have htoR1 := run_toR1 ha hb hn hp hlim hr hcard'
  refine ⟨_, exec_cmdSend ha hb, fun j v hr1b h0 hj hrun => ?_, ?_⟩
  · rw [hr1b] at htail
    obtain ⟨w, rfl, hw, hwlim⟩ := htail
    obtain ⟨k, rfl⟩ := Nat.exists_eq_add_of_lt h0
    have hsteps : skipped.length + polls.length + 1 + k + 1 = skipped.length + (polls.length + 1) + (k + 1) := by omega
    rw [hsteps, engineRun_add htoR1, txnAfterR1_busy hgood (by exact hr1b)] at hrun
    rw [List.length_append, List.length_singleton] at hj
    exact run_busy_poll (rest := 0xFF :: rest) (by exact ha.1) (by exact hb) rfl hw (by exact hwlim)
      (by simp [State.polled, State.frameOnWire]) k.succ_pos (by omega) hrun
  · have hend := run_goodTail (q := State.polled skipped polls (tail ++ rest) r1 s) (by exact ha.1) (by exact hb) hgood
      (by exact htail) rfl
    rw [Nat.add_assoc skipped.length, engineRun_add htoR1, hend, exchanges_command hn, ← List.append_assoc,
      ← List.append_assoc]
    obtain ⟨-, hidle⟩ := ha
    simp only [finishOk, State.polled, State.frameOnWire, State.launched, Status.completed, hidle]
    rfl

/-- Settles O28: the launch and the frame, and then each way to fail. -/
theorem cmdSendFails : Obligations.CmdSendFails := by
  unfold Obligations.CmdSendFails
  intro s skipped polls tail rest r1 code ha hb hn hp hlim hcase hcard
  have hcard' : s.card = skipped ++ (polls ++ r1 :: (tail ++ rest)) := by simpa using hcard
  have hsteps : skipped.length + polls.length + 1 + tail.length =
      skipped.length + (polls.length + 1) + tail.length := by
    omega
  have ends : ∀ q : State, q.lat = s.latchFor 0x0D → q.bus.cs = true → finishErr code q = { q with
      status := q.status.failed code, bus := { q.bus with cs := false, width32 := false }
      wire := q.wire ++ [.csChange false], cont := .idle } := by
    intro q hlat hcs
    have hop : q.lat.op ≠ initCode := by
      rw [hlat]
      exact (by decide : (0x0D : BitVec 5) ≠ initCode)
    rw [finishErr_eq code hop, State.releaseEvents, if_pos hcs]
  refine ⟨_, exec_cmdSend ha hb, fun j v h0 hj hrun => ?_, ?_⟩
  · obtain ⟨-, -, -, rfl⟩ | ⟨-, -, -, rfl⟩ | ⟨-, hr, hgood, hr1b, hbusy, hbound, hne⟩ := hcase
    · exact absurd hj (by simp; omega)
    · exact absurd hj (by simp; omega)
    · obtain ⟨w, last, rfl⟩ := (List.eq_nil_or_concat' tail).resolve_left hne
      obtain ⟨k, rfl⟩ := Nat.exists_eq_add_of_lt h0
      have hsteps : skipped.length + polls.length + 1 + k + 1 = skipped.length + (polls.length + 1) + (k + 1) := by
        omega
      rw [hsteps, engineRun_add (run_toR1 ha hb hn hp hlim hr hcard'), txnAfterR1_busy hgood (by exact hr1b)] at hrun
      rw [List.length_append, List.length_singleton] at hj hbound
      have hlim : w.length < busyBound s.params := by
        unfold busyBound
        omega
      exact run_busy_poll (busy := w) (rest := last :: rest) (by exact ha.1) (by exact hb) rfl
        (fun b hb => hbusy b (by simp [hb])) (by exact hlim) (by simp [State.polled, State.frameOnWire]) k.succ_pos
        (by omega) hrun
  · rw [hsteps, exchanges_command hn, ← List.append_assoc, ← List.append_assoc]
    obtain ⟨rfl, hr, hlast, rfl⟩ | ⟨rfl, hr, herr, rfl⟩ | ⟨rfl, hr, hgood, hr1b, hbusy, hbound, hne⟩ := hcase
    · have hpoll := run_r1Poll_timeout (s := State.frameOnWire skipped (polls ++ r1 :: ([] ++ rest)) s) (by exact ha.1)
        (by exact hb) rfl hp hlast hr rfl
      rw [List.length_nil, Nat.add_zero, engineRun_add (run_sentFrame ha hb hn hcard'), hpoll]
      refine congrArg Host.Outcome.next ((ends _ rfl rfl).trans ?_)
      simp [State.frameOnWire, State.launched, Status.failed, ha.2]
      rfl
    · rw [engineRun_add (run_toR1 ha hb hn hp hlim hr hcard'), txnAfterR1_error herr]
      refine congrArg Host.Outcome.next ((ends _ rfl rfl).trans ?_)
      simp [State.polled, State.frameOnWire, State.launched, Status.failed, ha.2]
    · have hbusy := run_busy_timeout (s := { State.polled skipped polls (tail ++ rest) r1 s with
          cont := .busy (.txn .cmdSend r1) 0 }) (by exact ha.1) (by exact hb) rfl hbusy hbound hne rfl
      rw [engineRun_add (run_toR1 ha hb hn hp hlim hr hcard'), txnAfterR1_busy hgood (by exact hr1b), hbusy]
      refine congrArg Host.Outcome.next ((ends _ rfl rfl).trans ?_)
      simp [State.polled, State.frameOnWire, State.launched, Status.failed, ha.2]
      rfl

end Sys2Proof.Proofs
end

section
/-! PROOFS. READ_BLOCK and WRITE_BLOCK from their launch to every finish (R230 to R246), with XFER, WIDTH32 and POLL on
the way. -/
namespace Sys2Proof.Proofs
open Sys2Proof.Machine Sys2Proof.Laws

/-! ### XFER and WIDTH32 within a data phase -/

/-- The program points of a block transfer once its data bytes are done, and the idle one after it. -/
def Cont.pastData : Cont → Bool
  | .idle | .readCrcHi | .readCrcLo _ | .writeCrcHi | .writeCrcLo | .writeResp _ | .busy .writeBlock _ => true
  | _ => false

/-- A block transfer with n data bytes done: XFER is 1 up to the last one, and from the first one up to the last one
WIDTH32 says whether the buffer is word-aligned (R84, R90). -/
structure DataPhase (n : Nat) (s : State) : Prop where
  xfer : s.status.xfer = decide (n < 512)
  width : 0 < n → s.bus.width32 = (decide (n < 512) && s.lat.wordAligned)
  byte : ∀ h : n < 512, s.cont = .readData ⟨n, h⟩ ∨ s.cont = .writeData ⟨n, h⟩
  past : 512 ≤ n → Cont.pastData s.cont = true

/-- The set-up of a data byte: WIDTH32 says whether the buffer is word-aligned (R84). -/
theorem DataPhase.prepare {n : Nat} {s : State} (d : DataPhase n s) (h : n < 512) :
    enginePrepare s = { s with bus := { s.bus with width32 := s.lat.wordAligned } } := by
  by_cases h0 : n = 0
  · subst h0
    obtain hc | hc := d.byte h <;> simp [enginePrepare, hc]
  · have hw : s.bus.width32 = s.lat.wordAligned := by simpa [h] using d.width (Nat.pos_of_ne_zero h0)
    have hp : enginePrepare s = s := by
      obtain hc | hc := d.byte h <;> simp [enginePrepare, hc, Fin.ext_iff, h0]
    rw [hp, ← hw]

/-- A data byte done (R232, R240). -/
theorem dataPhase_afterDataByte {n : Nat} {q : State} {more : Fin 512 → Cont} {next : Cont} (h : n < 512)
    (hmore : more = .readData ∨ more = .writeData) (hnext : Cont.pastData next = true) (hxfer : q.status.xfer = true)
    (hwidth : q.bus.width32 = q.lat.wordAligned) :
    DataPhase (n + 1) (afterDataByte ⟨n, h⟩ more next q) := by
  unfold afterDataByte
  split
  · next hlt =>
    have hlt : n + 1 < 512 := hlt
    refine ⟨by simpa [hlt] using hxfer, fun _ => by simpa [hlt] using hwidth, fun h' => ?_, fun h' => by omega⟩
    obtain rfl | rfl := hmore
    · exact .inl rfl
    · exact .inr rfl
  · next hlt =>
    have hlt : ¬n + 1 < 512 := hlt
    exact ⟨by simp [releaseBuffer, hlt], fun _ => by simp [releaseBuffer, hlt], fun h' => absurd h' hlt, fun _ => hnext⟩

/-- Once its data bytes are done a step of a block transfer sets up no bus. -/
theorem enginePrepare_bus_pastData {s : State} (h : Cont.pastData s.cont = true) : (enginePrepare s).bus = s.bus := by
  cases hc : s.cont <;> simp only [hc, Cont.pastData, Bool.false_eq_true] at h <;> simp [enginePrepare, hc]

/-- Once its data bytes are done a block transfer owns no buffer and moves no words. -/
theorem pastData_engineStep {s t : State} (hp : Cont.pastData s.cont = true) (hx : s.status.xfer = false)
    (hw : s.bus.width32 = false) (ht : engineStep s = .next t) :
    Cont.pastData t.cont = true ∧ t.status.xfer = false ∧ t.bus.width32 = false := by
  obtain ⟨-, rfl⟩ | ⟨hb, htx, -⟩ | ⟨hb, tx, -, -, -, rfl⟩ := engineStep_cases ht
  · exact ⟨hp, hx, hw⟩
  · obtain hc | hc | ⟨p, hc⟩ := engineTx_none htx
    · exact absurd hc hb
    all_goals simp [hc, Cont.pastData] at hp
  · generalize hq : (exchange tx (enginePrepare s)).2 = q
    obtain ⟨_, _, _, _, _, _, hprepare, -, -⟩ := enginePrepare_eq s
    have hqx : q.status.xfer = false := by
      rw [← hq, exchange_status, hprepare]
      exact hx
    have hqw : q.bus.width32 = false := by
      rw [← hq, exchange_bus, enginePrepare_bus_pastData hp]
      exact hw
    have hqc : q.cont = s.cont := by simp [← hq]
    generalize (exchange tx (enginePrepare s)).1 = rx
    cases hc : s.cont <;> simp only [hc, Cont.pastData, Bool.false_eq_true] at hp <;>
      simp only [engineAbsorb, hqc, hc]
    case idle => exact absurd hc hb
    case readCrcHi | writeCrcHi | writeCrcLo => exact ⟨rfl, hqx, hqw⟩
    case readCrcLo => split <;> exact ⟨rfl, rfl, rfl⟩
    case writeResp =>
      split
      · split
        · exact ⟨rfl, hqx, hqw⟩
        · exact ⟨rfl, rfl, rfl⟩
      · split
        · exact ⟨rfl, rfl, rfl⟩
        · exact ⟨rfl, hqx, hqw⟩
    case busy u k =>
      cases u <;> simp only [Bool.false_eq_true] at hp
      split
      · exact ⟨rfl, rfl, rfl⟩
      · split
        · exact ⟨rfl, rfl, rfl⟩
        · exact ⟨rfl, hqx, hqw⟩

/-- A step of a block transfer does one more data byte, whatever the Card answers. -/
theorem DataPhase.step {n : Nat} {s t : State} (d : DataPhase n s) (ht : engineStep s = .next t) :
    DataPhase (n + 1) t := by
  by_cases h : n < 512
  · have hprepare := d.prepare h
    have hx : s.status.xfer = true := by simpa [h] using d.xfer
    obtain ⟨hc, -⟩ | ⟨-, htx, -⟩ | ⟨-, tx, -, -, -, rfl⟩ := engineStep_cases ht
    · obtain hc' | hc' := d.byte h <;> simp [hc] at hc'
    · obtain hc' | hc' := d.byte h <;> simp [engineTx, hc'] at htx
    · generalize hq : (exchange tx (enginePrepare s)).2 = q
      have hqx : q.status.xfer = true := by simpa [← hq, hprepare] using hx
      have hqw : q.bus.width32 = q.lat.wordAligned := by simp [← hq, hprepare]
      have hqc : q.cont = s.cont := by simp [← hq]
      obtain hc | hc := d.byte h <;> simp only [engineAbsorb, hqc, hc]
      · exact dataPhase_afterDataByte h (.inl rfl) rfl hqx hqw
      · rw [countEngineDraw_eq]
        exact dataPhase_afterDataByte h (.inr rfl) rfl hqx hqw
  · have hx : s.status.xfer = false := by simpa [h] using d.xfer
    have hw : s.bus.width32 = false := by simpa [h] using d.width (by omega)
    have hlat := (engineStep_keeps ht).1
    obtain ⟨hp, hx', hw'⟩ := pastData_engineStep (d.past (by omega)) hx hw ht
    have hn : ¬n + 1 < 512 := by omega
    exact ⟨by simpa [hn] using hx', fun _ => by simpa [hn] using hw', fun h' => absurd h' hn, fun _ => hp⟩

/-- A run of a block transfer from its first data byte, whatever the Card answers (R84, R90). -/
theorem DataPhase.run (j : Nat) : ∀ {n : Nat} {s v : State}, DataPhase n s → engineRun j s = .next v →
    DataPhase (n + j) v ∧ v.lat = s.lat := by
  induction j with
  | zero =>
    intro n s v d hrun
    cases hrun
    exact ⟨d, rfl⟩
  | succ j ih =>
    intro n s v d hrun
    cases hs : engineStep s with
    | next t =>
      rw [engineRun_succ hs] at hrun
      obtain ⟨d', hlat⟩ := ih (d.step hs) hrun
      exact ⟨by rwa [Nat.add_assoc, Nat.add_comm 1] at d', hlat.trans (engineStep_keeps hs).1⟩
    | fault | refused => simp [engineRun, hs] at hrun

/-! ### READ_BLOCK -/

/-- READ_BLOCK launched, at its wait for the start token (R232, R314). -/
def State.readLaunched (s : State) : State :=
  { s.launched 0x0E (.tokenWait 0) with
    crc16 := 0, status := { (s.launched 0x0E (.tokenWait 0)).status with xfer := true } }

/-- READ_BLOCK where its launch is accepted (R232, R314). -/
theorem exec_readBlock {s : State} (ha : s.accepting) (hok : launchOk .readBlock s) :
    exec .readBlock s = .next (State.readLaunched s) :=
  exec_launchOk rfl ha hok

/-- One poll for the start token (R231). -/
theorem engineStep_tokenWait {k : Nat} {rx : Byte} {rest : List Byte} {s : State} (hf : s.status.fault = false)
    (hu : s.bus.busEn = true) (hc : s.cont = .tokenWait k) (hcard : s.card = rx :: rest) :
    engineStep s = .next (engineAbsorb 0xFF rx { s with
      card := rest, wire := s.wire ++ exchanges s.bus.cs s.bus [0xFF] [rx] }) :=
  engineStep_plain (tx := 0xFF) (by simp [hc]) (by simp [enginePrepare, hc]) (by simp [engineTx, hc, fill]) hf hu hcard

/-- The poll that answers the start token (R231). -/
theorem engineStep_tokenWait_found {k : Nat} {rest : List Byte} {s : State} (hf : s.status.fault = false)
    (hu : s.bus.busEn = true) (hc : s.cont = .tokenWait k) (hcard : s.card = 0xFE :: rest) :
    engineStep s = .next { s with
      cont := .readData 0, card := rest, wire := s.wire ++ exchanges s.bus.cs s.bus [0xFF] [0xFE] } := by
  rw [engineStep_tokenWait hf hu hc hcard]
  simp only [engineAbsorb, hc]
  rw [if_pos (by decide)]

/-- The poll that ends the wait without a start token: the last fill byte, or another byte (R231, R236). -/
theorem engineStep_tokenWait_fails {k : Nat} {rx : Byte} {code : ErrCode} {rest : List Byte} {s : State}
    (hf : s.status.fault = false) (hu : s.bus.busEn = true) (hc : s.cont = .tokenWait k)
    (hrx : (code = .tokenTimeout ∧ rx = 0xFF ∧ s.params.tokenPollLimit ≤ k + 1) ∨
      (code = .tokenFraming ∧ rx ≠ 0xFF ∧ rx ≠ 0xFE)) (hcard : s.card = rx :: rest) :
    engineStep s = .next (tokenFail code rx { s with
      card := rest, wire := s.wire ++ exchanges s.bus.cs s.bus [0xFF] [rx] }) := by
  rw [engineStep_tokenWait hf hu hc hcard]
  simp only [engineAbsorb, hc]
  obtain ⟨rfl, rfl, hlast⟩ | ⟨rfl, hfill, htoken⟩ := hrx
  · rw [if_neg (by decide), if_neg (by decide), if_pos hlast, ← hc]
    rfl
  · rw [if_neg (by exact htoken), if_pos (by exact hfill), ← hc]

/-- READ_BLOCK with k fill bytes polled. -/
def State.waited (k : Nat) (rest : List Byte) (s : State) : State :=
  { State.readLaunched s with
    cont := .tokenWait k, wire := s.wire ++ exchanges true s.bus (fills k) (fills k), card := rest }

/-- READ_BLOCK's polls that bring fill bytes (R231). -/
theorem run_waited {k : Nat} {rest : List Byte} {s : State} (ha : s.accepting) (hok : launchOk .readBlock s)
    (hk : k < s.params.tokenPollLimit) (hcard : s.card = fills k ++ rest) :
    engineRun k (State.readLaunched s) = .next (State.waited k rest s) := by
  obtain ⟨hbus, -, hcs, -⟩ := hok
  have hrun := run_tokenWait k rest 0 (State.readLaunched s) (by exact ha.1) (by exact hbus rfl) rfl
    (by rw [Nat.zero_add]; exact hk)
    (by exact hcard)
  have hevents : exchanges true s.bus = exchanges s.bus.cs s.bus := by rw [hcs rfl]
  rw [hrun, Nat.zero_add, State.waited, hevents]
  rfl

/-- The failed end of READ_BLOCK's wait (R232, R236, R319). -/
theorem tokenFail_eq (code : ErrCode) (b : Byte) {q : State} (hop : q.lat.op ≠ initCode) :
    tokenFail code b q = { q with
      status := q.status.failed code, data := b.setWidth 32
      bus := { q.bus with cs := false, width32 := false }, wire := q.wire ++ q.releaseEvents, cont := .idle } :=
  finishErr_eq code (s := { q with status := { q.status with xfer := false }, data := b.setWidth 32 }) hop

/-- Settles O32: the polls that bring fill bytes, and the one that ends the wait. -/
theorem readBlockTokenErrors : Obligations.ReadBlockTokenErrors := by
  unfold Obligations.ReadBlockTokenErrors
  intro s k b code rest ha hok hk hcase hcard
  have hwaited := run_waited (rest := b :: rest) ha hok hk (by simpa using hcard)
  refine ⟨_, exec_readBlock ha hok, ?_⟩
  obtain ⟨hbus, -, hcs, -⟩ := hok
  have hpoll : (code = .tokenTimeout ∧ b = 0xFF ∧ s.params.tokenPollLimit ≤ k + 1) ∨
      (code = .tokenFraming ∧ b ≠ 0xFF ∧ b ≠ 0xFE) :=
    hcase.imp_left fun ⟨hcode, hb, hlast⟩ => ⟨hcode, hb, hlast.ge⟩
  have hstep := engineStep_tokenWait_fails (s := State.waited k (b :: rest) s) (by exact ha.1) (by exact hbus rfl) rfl
    hpoll rfl
  rw [engineRun_add hwaited, engineRun_one, hstep,
    tokenFail_eq code b (by exact (by decide : (0x0E : BitVec 5) ≠ initCode))]
  have hselected : s.bus.cs = true := hcs rfl
  simp only [State.waited, State.readLaunched, State.launched, Status.failed, State.releaseEvents, hselected, ha.2,
    exchanges_fills_append _ _ (fills_length k), List.append_assoc]
  rfl

/-- The high byte of the received CRC (R232). -/
theorem engineStep_readCrcHi {rx : Byte} {rest : List Byte} {s : State} (hf : s.status.fault = false)
    (hu : s.bus.busEn = true) (hc : s.cont = .readCrcHi) (hcard : s.card = rx :: rest) :
    engineStep s = .next { s with
      cont := .readCrcLo rx, card := rest, wire := s.wire ++ exchanges s.bus.cs s.bus [0xFF] [rx] } := by
  rw [engineStep_plain (tx := 0xFF) (by simp [hc]) (by simp [enginePrepare, hc]) (by simp [engineTx, hc, fill]) hf hu
    hcard]
  simp [engineAbsorb, hc]

/-- The low byte of the received CRC ends READ_BLOCK (R232). -/
theorem engineStep_readCrcLo {hi rx : Byte} {rest : List Byte} {s : State} (hf : s.status.fault = false)
    (hu : s.bus.busEn = true) (hc : s.cont = .readCrcLo hi) (hop : s.lat.op ≠ initCode) (hcs : s.bus.cs = true)
    (hcard : s.card = rx :: rest) :
    engineStep s = .next { s with
      cont := .idle
      status := if hi ++ rx = s.crc16 then s.status.completed else s.status.failed .dataCrc
      bus := { s.bus with cs := hi ++ rx = s.crc16, width32 := false }
      data := (hi ++ rx).setWidth 32
      card := rest
      wire := s.wire ++ exchanges true s.bus [0xFF] [rx] ++
        (if hi ++ rx = s.crc16 then [] else [.csChange false]) } := by
  rw [engineStep_plain (tx := 0xFF) (by simp [hc]) (by simp [enginePrepare, hc]) (by simp [engineTx, hc, fill]) hf hu
    hcard]
  simp only [engineAbsorb, hc]
  split
  · next heq => simp [finishOk, Status.completed, heq, hcs]
  · next hne =>
    rw [← hc, finishErr_eq _ (by exact hop)]
    simp [State.releaseEvents, hne, hcs]

/-- The received CRC ends READ_BLOCK (R232). -/
theorem run_readCrc {hi lo : Byte} {rest : List Byte} {s : State} (hf : s.status.fault = false)
    (hu : s.bus.busEn = true) (hc : s.cont = .readCrcHi) (hop : s.lat.op ≠ initCode) (hcs : s.bus.cs = true)
    (hcard : s.card = hi :: lo :: rest) :
    engineRun 2 s = .next { s with
      cont := .idle
      status := if hi ++ lo = s.crc16 then s.status.completed else s.status.failed .dataCrc
      bus := { s.bus with cs := hi ++ lo = s.crc16, width32 := false }
      data := (hi ++ lo).setWidth 32
      card := rest
      wire := s.wire ++ exchanges true s.bus (fills 2) [hi, lo]
        ++ (if hi ++ lo = s.crc16 then [] else [.csChange false]) } := by
  rw [engineRun_succ (engineStep_readCrcHi hf hu hc hcard), engineRun_one,
    engineStep_readCrcLo (by exact hf) (by exact hu) rfl (by exact hop) (by exact hcs) rfl]
  simp [hcs, fills_succ]

/-- READ_BLOCK at its first data byte (R232). -/
def State.tokenRead (k : Nat) (rest : List Byte) (s : State) : State :=
  { State.waited k rest s with
    cont := .readData 0, wire := s.wire ++ exchanges true s.bus (fills (k + 1)) (fills k ++ [0xFE]) }

/-- READ_BLOCK up to its start token (R231). -/
theorem run_tokenRead {k : Nat} {rest : List Byte} {s : State} (ha : s.accepting) (hok : launchOk .readBlock s)
    (hk : k < s.params.tokenPollLimit) (hcard : s.card = fills k ++ 0xFE :: rest) :
    engineRun (k + 1) (State.readLaunched s) = .next (State.tokenRead k rest s) := by
  have hwaited := run_waited ha hok hk hcard
  obtain ⟨hbus, -, hcs, -⟩ := hok
  have hevents : exchanges true s.bus = exchanges s.bus.cs s.bus := by rw [hcs rfl]
  rw [engineRun_add hwaited, engineRun_one,
    engineStep_tokenWait_found (s := State.waited k (0xFE :: rest) s) (by exact ha.1) (by exact hbus rfl) rfl rfl]
  simp only [State.tokenRead, State.waited, exchanges_fills_append _ _ (fills_length k), hevents, List.append_assoc]
  rfl

/-- READ_BLOCK's first data byte begins its data phase. -/
theorem dataPhase_tokenRead (k : Nat) (rest : List Byte) (s : State) : DataPhase 0 (State.tokenRead k rest s) :=
  ⟨rfl, fun h => absurd h (lt_irrefl 0), fun _ => .inl rfl, fun h => by omega⟩

/-- XFER and WIDTH32 on READ_BLOCK's way (R84, R90). -/
theorem readBlock_flags {k j : Nat} {rest : List Byte} {s v : State} (ha : s.accepting) (hok : launchOk .readBlock s)
    (hk : k < s.params.tokenPollLimit) (hcard : s.card = fills k ++ 0xFE :: rest)
    (hrun : engineRun j (State.readLaunched s) = .next v) :
    v.status.xfer = decide (j < k + 1 + 512) ∧
      (k + 1 < j → v.bus.width32 = decide (j < k + 1 + 512 ∧ s.bufAddr.extractLsb' 0 2 = 0)) := by
  by_cases hj : j ≤ k
  · obtain ⟨n, rfl⟩ := Nat.exists_eq_add_of_le hj
    rw [fills_add, List.append_assoc] at hcard
    cases (run_waited ha hok (by omega) hcard).symm.trans hrun
    exact ⟨(decide_eq_true (by omega)).symm, fun h => by omega⟩
  · obtain ⟨n, rfl⟩ := Nat.exists_eq_add_of_le (Nat.lt_of_not_le hj)
    rw [Nat.succ_eq_add_one, engineRun_add (run_tokenRead ha hok hk hcard)] at hrun
    obtain ⟨d, hlat⟩ := DataPhase.run n (dataPhase_tokenRead k rest s) hrun
    have haligned : v.lat.wordAligned = decide (s.bufAddr.extractLsb' 0 2 = 0) := by
      rw [hlat]
      rfl
    rw [Nat.zero_add] at d
    refine ⟨by rw [d.xfer]; simp, fun h => ?_⟩
    rw [d.width (by omega), haligned]
    simp

/-- Settles O31: the start token, the data bytes by `run_readData`, the two bytes of the CRC, and the flags on the way
by `readBlock_flags`. -/
theorem readBlockTransfers : Obligations.ReadBlockTransfers := by
  unfold Obligations.ReadBlockTransfers
  intro s k block rest hi lo ha hok hmem hk hlen hcard
  have hcard' : s.card = fills k ++ 0xFE :: (block ++ hi :: lo :: rest) := by simpa using hcard
  have htoken := run_tokenRead ha hok hk hcard'
  have hflags := fun j v => readBlock_flags (j := j) (v := v) ha hok hk hcard'
  have hexec := exec_readBlock ha hok
  obtain ⟨hbus, -, hcs, hbuffer⟩ := hok
  obtain ⟨hfits, -⟩ := hbuffer rfl
  obtain ⟨m, e, f, hdata, hwf, hread, hother, heng, hseen⟩ := run_readData (hi :: lo :: rest) block 0
    (State.tokenRead k (block ++ hi :: lo :: rest) s) (by exact ha.1) (by exact hbus rfl) rfl (by simp [hlen]) rfl
    (by exact hmem) (by exact hfits)
  have hstart : (State.tokenRead k (block ++ hi :: lo :: rest) s).lat.buf.toNat + (0 : Fin 512).val =
      s.bufAddr.toNat := rfl
  simp only [hlen, hstart] at hdata hread hother heng hseen
  have hcrc := run_readCrc (hi := hi) (lo := lo) (rest := rest) (s := { State.tokenRead k [] s with
      cont := .readCrcHi, card := hi :: lo :: rest, crc16 := crc16Bytes 0 block
      status := { (State.tokenRead k [] s).status with xfer := false }
      bus := { s.bus with width32 := false }
      wire := s.wire ++ exchanges true s.bus (fills (k + 1)) (fills k ++ [0xFE]) ++
        exchanges s.bus.cs s.bus (fills 512) block
      mem := m, engStores := e, seenStores := f }) (by exact ha.1) (by exact hbus rfl) rfl
    (by exact (by decide : (0x0E : BitVec 5) ≠ initCode)) (by exact hcs rfl) rfl
  refine ⟨_, _, hexec, (by rw [engineRun_add (n := 2) (engineRun_add htoken ▸ hdata)]; exact hcrc),
    fun i _ => hread i (by omega),
    hother, fun a => ⟨heng a, hseen a⟩, fun j v _ => hflags j v, ?_⟩
  have htokenLength : (fills k ++ [0xFE]).length = k + 1 := by simp
  have hdataLength : (fills k ++ [0xFE] ++ block).length = k + 1 + 512 := by simp [hlen]
  have hevents : exchanges s.bus.cs s.bus = exchanges true s.bus := by rw [hcs rfl]
  rw [exchanges_fills_append _ _ hdataLength, exchanges_fills_append _ _ htokenLength, hevents]
  simp only [State.tokenRead, State.waited, State.readLaunched, State.launched, ← ha.2, List.append_assoc]
  rfl

end Sys2Proof.Proofs
end

section
/-! PROOFS. WRITE_BLOCK from its launch to every finish (R240 to R246), with XFER, WIDTH32 and POLL on the way. -/
namespace Sys2Proof.Proofs
open Sys2Proof.Machine Sys2Proof.Laws

/-! ### The block and its CRC -/

/-- WRITE_BLOCK launched, at its start token (R240, R314). -/
def State.writeLaunched (s : State) : State :=
  { s.launched 0x0F .writeToken with
    crc16 := 0, status := { (s.launched 0x0F .writeToken).status with xfer := true }, unordered := s.hostStores }

/-- WRITE_BLOCK where its launch is accepted (R240, R314). -/
theorem exec_writeBlock {s : State} (ha : s.accepting) (hok : launchOk .writeBlock s) :
    exec .writeBlock s = .next (State.writeLaunched s) :=
  exec_launchOk rfl ha hok

/-- The step that sends the start token (R240, R241). -/
theorem engineStep_writeToken {rx : Byte} {rest : List Byte} {s : State} (hf : s.status.fault = false)
    (hu : s.bus.busEn = true) (hc : s.cont = .writeToken) (hcard : s.card = rx :: rest) :
    engineStep s = .next { s with
      cont := .writeData 0, card := rest, wire := s.wire ++ exchanges s.bus.cs s.bus [s.lat.startToken] [rx] } := by
  rw [engineStep_plain (tx := s.lat.startToken) (by simp [hc]) (by simp [enginePrepare, hc]) (by simp [engineTx, hc]) hf
    hu hcard]
  simp [engineAbsorb, hc]

/-- The two steps that send the CRC, high byte first (R240). -/
theorem run_writeCrc {a b : Byte} {rest : List Byte} {s : State} (hf : s.status.fault = false) (hu : s.bus.busEn = true)
    (hc : s.cont = .writeCrcHi) (hcard : s.card = a :: b :: rest) :
    engineRun 2 s = .next { s with
      cont := .writeResp 0, card := rest
      wire := s.wire ++ exchanges s.bus.cs s.bus [s.crc16.extractLsb' 8 8, s.crc16.extractLsb' 0 8] [a, b] } := by
  have hhigh : engineStep s = .next { s with
      cont := .writeCrcLo, card := b :: rest
      wire := s.wire ++ exchanges s.bus.cs s.bus [s.crc16.extractLsb' 8 8] [a] } := by
    rw [engineStep_plain (tx := s.crc16.extractLsb' 8 8) (by simp [hc]) (by simp [enginePrepare, hc])
      (by simp [engineTx, hc]) hf hu hcard]
    simp [engineAbsorb, hc]
  rw [engineRun_succ hhigh, engineRun_one,
    engineStep_plain (tx := s.crc16.extractLsb' 0 8) (by simp) rfl rfl (by exact hf) (by exact hu) rfl]
  simp [engineAbsorb]

/-- What WRITE_BLOCK has sent before it waits for the data response: its start token, the data bytes and their CRC. -/
def sentBlock (s : State) (sent : List Byte) : List Byte :=
  (if s.data.getLsbD 0 then 0xFC else 0xFE) :: sent
    ++ [(crc16Bytes 0 sent).extractLsb' 8 8, (crc16Bytes 0 sent).extractLsb' 0 8]

/-- WRITE_BLOCK with its block on the wire: the wait for the data response is next. -/
def State.blockSent (sent : List Byte) (d : Nat) (skipped rest : List Byte) (s : State) : State :=
  { State.writeLaunched s with
    cont := .writeResp 0
    status := { (State.writeLaunched s).status with xfer := false }
    bus := { s.bus with width32 := false }
    crc16 := crc16Bytes 0 sent
    wire := s.wire ++ exchanges true s.bus (sentBlock s sent) skipped
    draws := d, card := rest }

/-- The bytes that WRITE_BLOCK sends are those of the buffer; where one is not ordered it is any byte (R94, log 12). -/
structure SentFrom (s : State) (sent : List Byte) (d : Nat) : Prop where
  length : sent.length = 512
  byte : ∀ i (h : i < sent.length), s.bufAddr.toNat + i ∉ s.hostStores → sent[i] = s.mem.read (s.bufAddr.toNat + i)
  draws : (∀ i, i < 512 → s.bufAddr.toNat + i ∉ s.hostStores) → d = s.draws

/-- WRITE_BLOCK up to its wait for the data response (R240, R241). -/
theorem run_blockSent {skipped rest : List Byte} {s : State} (ha : s.accepting) (hok : launchOk .writeBlock s)
    (hlen : skipped.length = 515) (hcard : s.card = skipped ++ rest) :
    ∃ sent d, SentFrom s sent d ∧
      engineRun 515 (State.writeLaunched s) = .next (State.blockSent sent d skipped rest s) := by
  obtain ⟨hbus, -, hcs, hbuffer⟩ := hok
  obtain ⟨hfits, -⟩ := hbuffer rfl
  obtain ⟨x, tail, rfl⟩ := List.exists_cons_of_length_eq_add_one hlen
  obtain ⟨rxs, crc, rfl, hrxs⟩ : ∃ rxs crc, tail = rxs ++ crc ∧ rxs.length = 512 :=
    ⟨tail.take 512, tail.drop 512, (List.take_append_drop ..).symm, by simp at hlen; simp [hlen]⟩
  obtain ⟨a, b, rfl⟩ : ∃ a b, crc = [a, b] := List.length_eq_two.mp (by simp [hrxs] at hlen; omega)
  have htoken := engineStep_writeToken (s := State.writeLaunched s) (rx := x) (rest := rxs ++ (a :: b :: rest))
    (by exact ha.1) (by exact hbus rfl) rfl (by simpa [State.writeLaunched, State.launched] using hcard)
  obtain ⟨sent, d, hsent, hbyte, hdraws, hdata⟩ := run_writeData (a :: b :: rest) rxs 0 { State.writeLaunched s with
      cont := .writeData 0, card := rxs ++ (a :: b :: rest)
      wire := s.wire ++ exchanges s.bus.cs s.bus [(s.latchFor 0x0F).startToken] [x] } (by exact ha.1)
    (by exact hbus rfl) rfl (by simp [hrxs]) rfl (by exact hfits)
  have hbase : (State.writeLaunched s).lat.buf.toNat + (0 : Fin 512).val = s.bufAddr.toNat := rfl
  simp only [hbase, hrxs] at hbyte hdraws hdata hsent
  refine ⟨sent, d, ⟨hsent, fun i _ => hbyte i (by omega), hdraws⟩, ?_⟩
  have hcrc := run_writeCrc (a := a) (b := b) (rest := rest) (s := { State.writeLaunched s with
      cont := .writeCrcHi
      status := { (State.writeLaunched s).status with xfer := false }
      bus := { s.bus with width32 := false }
      crc16 := crc16Bytes 0 sent
      wire := s.wire ++ exchanges s.bus.cs s.bus [(s.latchFor 0x0F).startToken] [x] ++ exchanges s.bus.cs s.bus sent rxs
      draws := d, card := a :: b :: rest }) (by exact ha.1) (by exact hbus rfl) rfl rfl
  have hevents : exchanges true s.bus (sentBlock s sent) (x :: (rxs ++ [a, b])) =
      exchanges true s.bus [(s.latchFor 0x0F).startToken] [x] ++ exchanges true s.bus sent rxs ++
        exchanges true s.bus [(crc16Bytes 0 sent).extractLsb' 8 8, (crc16Bytes 0 sent).extractLsb' 0 8] [a, b] := by
    rw [sentBlock, List.cons_append, exchanges_cons, exchanges_append _ _ _ _ _ _ (hsent.trans hrxs.symm)]
    rfl
  have hselected : s.bus.cs = true := hcs rfl
  have hrun : engineRun (1 + (512 + 2)) (State.writeLaunched s) = _ :=
    (engineRun_add (engineRun_one _ ▸ htoken)).trans ((engineRun_add hdata).trans hcrc)
  rw [hrun, State.blockSent, hevents, hselected]
  simp only [List.append_assoc]
  rfl

/-! ### The data response -/

/-- One poll for the data response (R243). -/
theorem engineStep_writeResp {k : Nat} {rx : Byte} {rest : List Byte} {s : State} (hf : s.status.fault = false)
    (hu : s.bus.busEn = true) (hc : s.cont = .writeResp k) (hcard : s.card = rx :: rest) :
    engineStep s = .next (engineAbsorb 0xFF rx { s with
      card := rest, wire := s.wire ++ exchanges s.bus.cs s.bus [0xFF] [rx] }) :=
  engineStep_plain (tx := 0xFF) (by simp [hc]) (by simp [enginePrepare, hc]) (by simp [engineTx, hc, fill]) hf hu hcard

/-- A data response that accepts the block: DRESP receives it, the busy poll is next (R243 to R245). -/
theorem engineStep_writeResp_accepted {k : Nat} {rx : Byte} {rest : List Byte} {s : State}
    (hf : s.status.fault = false) (hu : s.bus.busEn = true) (hc : s.cont = .writeResp k) (hfill : rx ≠ 0xFF)
    (hrx : rx &&& 0x1F = 0x05) (hcard : s.card = rx :: rest) :
    engineStep s = .next { s with
      cont := .busy .writeBlock 0, dresp := rx, card := rest
      wire := s.wire ++ exchanges s.bus.cs s.bus [0xFF] [rx] } := by
  have haccepted : responseAccepted rx = true := by simpa [responseAccepted] using hrx
  rw [engineStep_writeResp hf hu hc hcard]
  simp only [engineAbsorb, hc]
  rw [if_pos (by exact hfill), if_pos haccepted]

/-- A poll that ends WRITE_BLOCK: the last one without a data response, or one that rejects the block (R243 to
R246). -/
theorem engineStep_writeResp_fails {k : Nat} {rx : Byte} {code : ErrCode} {rest : List Byte} {s : State}
    (hf : s.status.fault = false) (hu : s.bus.busEn = true) (hc : s.cont = .writeResp k)
    (hrx : (code = .drespTimeout ∧ rx = 0xFF ∧ s.params.drespLimit ≤ k + 1) ∨
      (code = .writeRejected ∧ rx ≠ 0xFF ∧ rx &&& 0x1F ≠ 0x05)) (hcard : s.card = rx :: rest) :
    engineStep s = .next (finishErr code { s with
      dresp := rx, card := rest, wire := s.wire ++ exchanges s.bus.cs s.bus [0xFF] [rx] }) := by
  rw [engineStep_writeResp hf hu hc hcard]
  simp only [engineAbsorb, hc]
  obtain ⟨rfl, rfl, hlast⟩ | ⟨rfl, hfill, hrejected⟩ := hrx
  · rw [if_neg (by decide), if_pos hlast, ← hc]
    rfl
  · have hrejected : ¬responseAccepted rx = true := by simpa [responseAccepted] using hrejected
    rw [if_pos (by exact hfill), if_neg hrejected, ← hc]

/-- WRITE_BLOCK with k fill bytes polled for the data response (R243). -/
def State.responsePolled (sent : List Byte) (d : Nat) (skipped : List Byte) (k : Nat) (rest : List Byte) (s : State) :
    State :=
  { State.blockSent sent d skipped rest s with
    cont := .writeResp k
    wire := (State.blockSent sent d skipped rest s).wire ++ exchanges true s.bus (fills k) (fills k) }

/-- WRITE_BLOCK's polls that bring fill bytes (R243). -/
theorem run_responsePolled {sent skipped rest : List Byte} {d k : Nat} {s : State} (ha : s.accepting)
    (hok : launchOk .writeBlock s) (hk : k < s.params.drespLimit) :
    engineRun k (State.blockSent sent d skipped (fills k ++ rest) s) =
      .next (State.responsePolled sent d skipped k rest s) := by
  obtain ⟨hbus, -, hcs, -⟩ := hok
  have hselected : s.bus.cs = true := hcs rfl
  rw [run_writeResp k rest 0 (State.blockSent sent d skipped (fills k ++ rest) s) (by exact ha.1) (by exact hbus rfl)
    rfl
    (by rw [Nat.zero_add]; exact hk) rfl, Nat.zero_add]
  simp only [State.blockSent, State.responsePolled, hselected]
  rfl

/-- WRITE_BLOCK with its block accepted: the busy poll is next (R245, R246). -/
def State.blockAccepted (sent : List Byte) (d : Nat) (skipped : List Byte) (k : Nat) (r : Byte) (rest : List Byte)
    (s : State) : State :=
  { State.blockSent sent d skipped rest s with
    cont := .busy .writeBlock 0, dresp := r
    wire := (State.blockSent sent d skipped rest s).wire ++ exchanges true s.bus (fills (k + 1)) (fills k ++ [r]) }

/-- WRITE_BLOCK from its wait for the data response to its busy poll (R243 to R245). -/
theorem run_blockAccepted {sent skipped rest : List Byte} {d k : Nat} {r : Byte} {s : State} (ha : s.accepting)
    (hok : launchOk .writeBlock s) (hk : k < s.params.drespLimit) (hfill : r ≠ 0xFF) (hr : r &&& 0x1F = 0x05) :
    engineRun (k + 1) (State.blockSent sent d skipped (fills k ++ r :: rest) s) =
      .next (State.blockAccepted sent d skipped k r rest s) := by
  have hpolled := run_responsePolled (sent := sent) (skipped := skipped) (rest := r :: rest) (d := d) ha hok hk
  obtain ⟨hbus, -, hcs, -⟩ := hok
  have hselected : s.bus.cs = true := hcs rfl
  rw [engineRun_add hpolled, engineRun_one,
    engineStep_writeResp_accepted (by exact ha.1) (by exact hbus rfl) rfl hfill hr rfl]
  simp only [State.blockSent, State.responsePolled, State.blockAccepted, hselected,
    exchanges_fills_append _ _ (fills_length k), List.append_assoc]
  rfl

/-! ### XFER, WIDTH32 and POLL -/

/-- XFER and WIDTH32 on WRITE_BLOCK's way (R84, R90). -/
theorem writeBlock_flags {j : Nat} {x : Byte} {rest : List Byte} {s v : State} (ha : s.accepting)
    (hok : launchOk .writeBlock s) (hcard : s.card = x :: rest)
    (hrun : engineRun j (State.writeLaunched s) = .next v) :
    v.status.xfer = decide (j < 513) ∧
      (1 < j → v.bus.width32 = decide (j < 513 ∧ s.bufAddr.extractLsb' 0 2 = 0)) := by
  obtain ⟨hbus, -, -, -⟩ := hok
  cases j with
  | zero =>
    cases hrun
    exact ⟨rfl, nofun⟩
  | succ n =>
    rw [engineRun_succ (engineStep_writeToken (s := State.writeLaunched s) (by exact ha.1) (by exact hbus rfl) rfl
      (by exact hcard))] at hrun
    obtain ⟨d, hlat⟩ := DataPhase.run (n := 0) n ⟨rfl, nofun, fun _ => .inr rfl, nofun⟩ hrun
    have haligned : v.lat.wordAligned = decide (s.bufAddr.extractLsb' 0 2 = 0) := by
      rw [hlat]
      rfl
    rw [Nat.zero_add] at d
    have hcount : decide (n + 1 < 513) = decide (n < 512) := decide_eq_decide.mpr (by omega)
    refine ⟨by rw [d.xfer, hcount], fun h => ?_⟩
    rw [d.width (by omega), haligned, Bool.decide_and, hcount]

/-- The same where the answers to the block and its CRC are skipped. -/
theorem writeBlock_flags_of_skipped {j : Nat} {skipped rest : List Byte} {s v : State} (ha : s.accepting)
    (hok : launchOk .writeBlock s) (hlen : skipped.length = 515) (hcard : s.card = skipped ++ rest)
    (hrun : engineRun j (State.writeLaunched s) = .next v) :
    v.status.xfer = decide (j < 513) ∧
      (1 < j → v.bus.width32 = decide (j < 513 ∧ s.bufAddr.extractLsb' 0 2 = 0)) := by
  obtain ⟨x, tail, rfl⟩ := List.exists_cons_of_length_eq_add_one hlen
  exact writeBlock_flags ha hok hcard hrun

/-- POLL within WRITE_BLOCK's busy poll (R253). -/
theorem writeBlock_poll {sent skipped busy rest : List Byte} {d k m j : Nat} {r : Byte} {s v : State} (ha : s.accepting)
    (hok : launchOk .writeBlock s) (hbusy : ∀ b ∈ busy, b ≠ 0xFF) (hlim : busy.length < busyBound s.params)
    (haccepted : engineRun m (State.writeLaunched s) = .next (State.blockAccepted sent d skipped k r (busy ++ rest) s))
    (h0 : m < j) (hj : j ≤ m + busy.length) (hrun : engineRun j (State.writeLaunched s) = .next v) :
    v.status.poll = true := by
  obtain ⟨n, rfl⟩ := Nat.exists_eq_add_of_lt h0
  rw [Nat.add_assoc, engineRun_add haccepted] at hrun
  exact run_busy_poll (by exact ha.1) (by exact hok.1 rfl) rfl hbusy (by exact hlim) rfl n.succ_pos (by omega) hrun

/-! ### The ends -/

/-- The run that leads to WRITE_BLOCK's busy poll. -/
theorem run_toBusy {sent skipped rest : List Byte} {d k : Nat} {r : Byte} {s : State} (ha : s.accepting)
    (hok : launchOk .writeBlock s) (hk : k < s.params.drespLimit) (hfill : r ≠ 0xFF) (hr : r &&& 0x1F = 0x05)
    (hblock : engineRun 515 (State.writeLaunched s) = .next (State.blockSent sent d skipped (fills k ++ r :: rest) s)) :
    engineRun (515 + k + 1) (State.writeLaunched s) = .next (State.blockAccepted sent d skipped k r rest s) :=
  (engineRun_add (n := k + 1) hblock).trans (run_blockAccepted ha hok hk hfill hr)

/-- Settles O33: the block by `run_blockSent`, the data response, and the busy poll to READY. -/
theorem writeBlockTransfers : Obligations.WriteBlockTransfers := by
  unfold Obligations.WriteBlockTransfers
  intro s skipped busy rest k r ha hok hlen hk hfill hr hbusy hlim hcard
  have hcard' : s.card = skipped ++ (fills k ++ r :: (busy ++ 0xFF :: rest)) := by simpa using hcard
  obtain ⟨sent, d, ⟨hsent, hbyte, hdraws⟩, hblock⟩ := run_blockSent ha hok hlen hcard'
  have hpoll := run_toBusy ha hok hk hfill hr hblock
  have hflags := fun j v => writeBlock_flags_of_skipped (j := j) (v := v) ha hok hlen hcard'
  have hbus : s.bus.busEn = true := hok.1 rfl
  have hselected : s.bus.cs = true := hok.2.2.1 rfl
  have hend := run_busy_ready (s := State.blockAccepted sent d skipped k r (busy ++ 0xFF :: rest) s) (by exact ha.1)
    (by exact hbus) rfl hbusy (by exact hlim) rfl
  refine ⟨_, sent, d, exec_writeBlock ha hok, hsent, hbyte, hdraws, fun j v hj hrun => ?_, ?_⟩
  · obtain ⟨hxfer, hwidth⟩ := hflags j v hrun
    exact ⟨hxfer, hwidth, fun h0 => writeBlock_poll ha hok hbusy (by exact hlim) hpoll h0 (by omega) hrun⟩
  · rw [Nat.add_assoc _ busy.length, engineRun_add hpoll, hend, busyReturn_ready (u := .writeBlock) (by simp)]
    have hevents := exchanges_command (cs := true) (b := s.bus) (sent := sentBlock s sent) (polls := fills k)
      (tail := busy ++ [0xFF]) (r1 := r) (skipped := skipped) (by simp [sentBlock, hlen, hsent])
    rw [fills_length, List.length_append, List.length_singleton, ← Nat.add_assoc, ← List.append_assoc _ busy] at hevents
    rw [sentBlock] at hevents
    rw [hevents]
    simp only [finishOk, State.blockAccepted, State.blockSent, State.writeLaunched, State.launched, sentBlock,
      Status.completed, hselected, ← ha.2, List.append_assoc]
    rfl

/-- Settles O34: the block by `run_blockSent`, and then each way to fail. -/
theorem writeBlockFails : Obligations.WriteBlockFails := by
  unfold Obligations.WriteBlockFails
  intro s skipped busy rest k r code ha hok hlen hk hcase hcard
  have hcard' : s.card = skipped ++ (fills k ++ r :: (busy ++ rest)) := by simpa using hcard
  obtain ⟨sent, d, ⟨hsent, hbyte, hdraws⟩, hblock⟩ := run_blockSent ha hok hlen hcard'
  have hbus : s.bus.busEn = true := hok.1 rfl
  have hselected : s.bus.cs = true := hok.2.2.1 rfl
  have hop : (s.latchFor 0x0F).op ≠ initCode := (by decide : (0x0F : BitVec 5) ≠ initCode)
  have hcase : (((code = .drespTimeout ∧ r = 0xFF ∧ s.params.drespLimit ≤ k + 1) ∨
      (code = .writeRejected ∧ r ≠ 0xFF ∧ r &&& 0x1F ≠ 0x05)) ∧ busy = []) ∨
      (code = .busyTimeout ∧ r ≠ 0xFF ∧ r &&& 0x1F = 0x05 ∧ (∀ b ∈ busy, b ≠ 0xFF) ∧
        busy.length = s.params.busyFastSamples + s.params.busyPollLimit ∧ busy ≠ []) := by
    obtain ⟨hcode, hr, hlast, hempty⟩ | ⟨hcode, hfill, hr, hempty⟩ | hbusy := hcase
    · exact .inl ⟨.inl ⟨hcode, hr, hlast.ge⟩, hempty⟩
    · exact .inl ⟨.inr ⟨hcode, hfill, hr⟩, hempty⟩
    · exact .inr hbusy
  refine ⟨_, sent, d, exec_writeBlock ha hok, hsent, hbyte, hdraws, fun j v hj hrun => ?_, ?_⟩
  · obtain ⟨hxfer, hwidth⟩ := writeBlock_flags_of_skipped ha hok hlen hcard' hrun
    refine ⟨hxfer, hwidth, fun h0 => ?_⟩
    obtain ⟨-, rfl⟩ | ⟨-, hfill, hr, hbusy, hbound, hne⟩ := hcase
    · exact absurd hj (by simp; omega)
    · obtain ⟨w, last, rfl⟩ := (List.eq_nil_or_concat' busy).resolve_left hne
      rw [List.length_append, List.length_singleton] at hj hbound
      have hlim : w.length < busyBound s.params := by
        unfold busyBound
        omega
      exact writeBlock_poll ha hok (busy := w) (rest := last :: rest) (fun b hb => hbusy b (by simp [hb]))
        (by exact hlim)
        (by simpa using run_toBusy ha hok hk hfill hr hblock) h0 (by omega) hrun
  · have hevents := exchanges_command (cs := true) (b := s.bus) (sent := sentBlock s sent) (polls := fills k)
      (tail := busy) (r1 := r) (skipped := skipped) (by simp [sentBlock, hlen, hsent])
    rw [fills_length, sentBlock] at hevents
    rw [hevents]
    obtain ⟨hanswer, rfl⟩ | ⟨rfl, hfill, hr, hbusy, hbound, hne⟩ := hcase
    · have hpolled := (engineRun_add (n := k) hblock).trans
        (run_responsePolled (rest := r :: rest) ha hok hk)
      have hend := engineStep_writeResp_fails (s := State.responsePolled sent d skipped k (r :: rest) s) (by exact ha.1)
        (by exact hbus) rfl hanswer rfl
      rw [List.length_nil, Nat.add_zero, engineRun_add hpolled, engineRun_one, hend, finishErr_eq code (by exact hop)]
      simp only [State.responsePolled, State.blockSent, State.writeLaunched, State.launched, State.releaseEvents,
        sentBlock,
        Status.failed, hselected, ← ha.2, exchanges_fills_append _ _ (fills_length k), List.append_assoc]
      rfl
    · have hend := run_busy_timeout (s := State.blockAccepted sent d skipped k r (busy ++ rest) s) (by exact ha.1)
        (by exact hbus) rfl hbusy (by exact hbound) hne rfl
      rw [engineRun_add (run_toBusy ha hok hk hfill hr hblock), hend,
        busyReturn_timeout (u := .writeBlock) (by simp) (by exact hop)]
      simp only [State.blockAccepted, State.blockSent, State.writeLaunched, State.launched, State.releaseEvents,
        sentBlock,
        Status.failed, hselected, ← ha.2, List.append_assoc]
      rfl

end Sys2Proof.Proofs
end

section
/-! PROOFS. The laws of the two CRC functions (R177, R193). Both are a fold of one step of polynomial division, which is
linear, and which only shifts where the bit fed in is the one shifted out: that clears a CRC followed by itself. -/
namespace Sys2Proof.Proofs
open Sys2Proof.Machine Sys2Proof.Laws

/-! ### Linearity -/

/-- One bit of the division by the polynomial `poly`, of which `crc7Bit` and `crc16Bit` are the two cases. -/
def crcBit {w : Nat} (poly c : BitVec w) (bit : Bool) : BitVec w :=
  if (c.getLsbD (w - 1) ^^ bit) then (c <<< 1) ^^^ poly else c <<< 1

/-- One bit of the division is linear. -/
theorem crcBit_xor {w : Nat} (poly a b : BitVec w) (x y : Bool) :
    crcBit poly (a ^^^ b) (x ^^ y) = crcBit poly a x ^^^ crcBit poly b y := by
  have hshift : (a ^^^ b) <<< 1 = a <<< 1 ^^^ b <<< 1 := BitVec.shiftLeft_xor_distrib a b 1
  have hbit : ((a ^^^ b).getLsbD (w - 1) ^^ (x ^^ y)) = ((a.getLsbD (w - 1) ^^ x) ^^ (b.getLsbD (w - 1) ^^ y)) := by
    rw [BitVec.getLsbD_xor]
    generalize a.getLsbD (w - 1) = m, b.getLsbD (w - 1) = n
    revert m n x y
    decide
  unfold crcBit
  rw [hshift, hbit]
  cases a.getLsbD (w - 1) ^^ x <;> cases b.getLsbD (w - 1) ^^ y
  case true.true =>
    calc a <<< 1 ^^^ b <<< 1 = (a <<< 1 ^^^ b <<< 1) ^^^ (poly ^^^ poly) := by simp
      _ = (a <<< 1 ^^^ poly) ^^^ (b <<< 1 ^^^ poly) := by ac_rfl
  case true.false => exact (by ac_rfl : (a <<< 1 ^^^ b <<< 1) ^^^ poly = (a <<< 1 ^^^ poly) ^^^ b <<< 1)
  case false.true => exact BitVec.xor_assoc ..
  case false.false => rfl

/-- One bit of the CRC-7 division is linear. -/
theorem crc7Bit_xor (a b : BitVec 7) (x y : Bool) : crc7Bit (a ^^^ b) (x ^^ y) = crc7Bit a x ^^^ crc7Bit b y :=
  crcBit_xor 0x09#7 a b x y

/-- One bit of the CRC-16 division is linear. -/
theorem crc16Bit_xor (a b : BitVec 16) (x y : Bool) : crc16Bit (a ^^^ b) (x ^^ y) = crc16Bit a x ^^^ crc16Bit b y :=
  crcBit_xor 0x1021#16 a b x y

/-- The fold of a linear step is linear over lists of equal length. -/
theorem foldl_xor {w v : Nat} {step : BitVec w → BitVec v → BitVec w}
    (hstep : ∀ a b x y, step (a ^^^ b) (x ^^^ y) = step a x ^^^ step b y) (xs ys : List (BitVec v))
    (h : xs.length = ys.length) (a b : BitVec w) :
    (List.zipWith (fun x y => x ^^^ y) xs ys).foldl step (a ^^^ b) = xs.foldl step a ^^^ ys.foldl step b := by
  induction xs generalizing ys a b with
  | nil =>
    obtain rfl : ys = [] := List.length_eq_zero_iff.mp h.symm
    rfl
  | cons x xs ih =>
    obtain ⟨y, ys, rfl⟩ := List.exists_cons_of_length_eq_add_one h.symm
    simp only [List.zipWith_cons_cons, List.foldl_cons, hstep]
    exact ih ys (by simpa using h) _ _

/-- One byte of the CRC-7 is linear. -/
theorem crc7Step_xor (a b : BitVec 7) (x y : Byte) : crc7Step (a ^^^ b) (x ^^^ y) = crc7Step a x ^^^ crc7Step b y := by
  simp only [crc7Step, List.foldl_cons, List.foldl_nil, BitVec.getLsbD_xor, crc7Bit_xor]

/-- One byte of the CRC-16 is linear. -/
theorem crc16Step_xor (a b : BitVec 16) (x y : Byte) :
    crc16Step (a ^^^ b) (x ^^^ y) = crc16Step a x ^^^ crc16Step b y := by
  simp only [crc16Step, List.foldl_cons, List.foldl_nil, BitVec.getLsbD_xor, crc16Bit_xor]

/-! ### What a CRC followed by itself leaves -/

/-- Feeding the CRC-7 with its own seven bits, each the one shifted out, shifts it out (R177 (e)). -/
theorem crc7_feed_self (c : BitVec 7) : [6, 5, 4, 3, 2, 1, 0].foldl (fun r i => crc7Bit r (c.getLsbD i)) c = 0 := by
  simp [crc7Bit, ← BitVec.shiftLeft_add]

/-- Feeding the CRC-16 with its own high byte, each bit the one shifted out, only shifts it (R193 (a)). -/
theorem crc16Step_top (c : BitVec 16) : crc16Step c (c.extractLsb' 8 8) = c <<< 8 := by
  simp [crc16Step, crc16Bit, ← BitVec.shiftLeft_add]

/-- Feeding the CRC-16 with its own two bytes, the high one first, clears it (R193 (a)). -/
theorem crc16_feed_self (c : BitVec 16) : crc16Step (crc16Step c (c.extractLsb' 8 8)) (c.extractLsb' 0 8) = 0 := by
  have hlow : c.extractLsb' 0 8 = (c <<< 8).extractLsb' 8 8 := by
    ext j hj
    simp
    omega
  rw [crc16Step_top, hlow, crc16Step_top, ← BitVec.shiftLeft_add]
  simp

/-! ### The laws -/

/-- Zeros leave the CRC-7 zero (R177 (b)). -/
theorem crc7Bytes_zeros (n : Nat) : crc7Bytes 0 (List.replicate n 0x00) = 0 := by
  induction n with
  | zero => rfl
  | succ n ih => exact (congrArg (crc7Bytes · _) (by decide : crc7Step 0 0x00 = 0)).trans ih

/-- Settles O10. -/
theorem crc7Laws : Obligations.Crc7Laws :=
  ⟨fun x y h => foldl_xor crc7Step_xor x y h 0 0, crc7Bytes_zeros, by decide, by decide +kernel,
   fun _ c _ => crc7_feed_self c⟩

/-- `crc16Bytes` on numbers, which computes each step before the next: the kernel evaluates it over a whole block. -/
def crc16Eager : List Byte → Nat → Nat
  | [], c => c
  | b :: bs, c =>
    match (crc16Step (BitVec.ofNat 16 c) b).toNat with
    | 0 => crc16Eager bs 0
    | n + 1 => crc16Eager bs (n + 1)

/-- `crc16Eager` computes `crc16Bytes`. -/
theorem crc16Eager_toNat (bs : List Byte) (c : BitVec 16) : crc16Eager bs c.toNat = (crc16Bytes c bs).toNat := by
  induction bs generalizing c with
  | nil => rfl
  | cons b bs ih =>
    have hstep : crc16Eager (b :: bs) c.toNat = crc16Eager bs (crc16Step c b).toNat := by
      rw [crc16Eager, BitVec.ofNat_toNat, BitVec.setWidth_eq]
      split <;> simp_all
    exact hstep.trans (ih _)

/-- The CRC of a block, by `crc16Eager`. -/
theorem crc16Bytes_of_eager {bs : List Byte} {c : BitVec 16} (h : crc16Eager bs 0 = c.toNat) : crc16Bytes 0 bs = c :=
  BitVec.eq_of_toNat_eq ((crc16Eager_toNat bs 0).symm.trans h)

/-- Settles O11: the CRCs of the four blocks are computed. -/
theorem crc16Laws : Obligations.Crc16Laws := by
  refine ⟨fun d c h => ?_, fun x y h => foldl_xor crc16Step_xor x y h 0 0, crc16Bytes_of_eager (by decide +kernel),
    crc16Bytes_of_eager (by decide +kernel), crc16Bytes_of_eager (by decide +kernel),
    crc16Bytes_of_eager (by decide +kernel), by decide, by decide +kernel⟩
  subst h
  rw [crc16Bytes, List.foldl_append]
  exact crc16_feed_self (crc16Bytes 0 d)

end Sys2Proof.Proofs
end

section
/-! PROOFS. The reset input, the check order and the actions of a launch, what a fault leaves, and BUS_DISABLE (R147,
R313 to R316, R321, R350). -/
namespace Sys2Proof.Proofs
open Sys2Proof.Machine Sys2Proof.Laws

/-! ### Events that are no instruction -/

/-- An event that is no instruction is its own step. -/
theorem step_of_event {s : State} {r : Result} (hd : s.params.inDomain = true) (hf : fetch s = .step r) :
    step s = r := by
  simp only [step, hd, hf, if_true]

/-- The reset input (R350). -/
theorem step_reset {s : State} {rest : List HostAction} (hd : s.params.inDomain = true)
    (hq : s.hostq = .reset :: rest) :
    step s = .next (resetBlock { s with hostq := rest }) :=
  step_of_event hd (by simp only [fetch, hq])

/-- A Host load (R33, R80). -/
theorem step_load {s : State} {addr : Word} {width : Width} {rest : List HostAction} (hd : s.params.inDomain = true)
    (hq : s.hostq = .load addr width :: rest) : step s = hostLoad addr width { s with hostq := rest } :=
  step_of_event hd (by simp only [fetch, hq])

/-- A Host store that does not write OPCODE (R33, R80). -/
theorem step_store {s : State} {addr v : Word} {width : Width} {rest : List HostAction} (hd : s.params.inDomain = true)
    (hq : s.hostq = .store addr width v :: rest) (hop : windowOffset s.params addr = some 0 → width ≠ .w32) :
    step s = hostStore addr width v { s with hostq := rest } :=
  step_of_event hd (by
    simp only [fetch, hq]
    exact if_neg fun h => hop h.1 h.2)

/-- Settles O2. -/
theorem resetAction : Obligations.ResetAction := by
  intro s rest hd hq
  have hbus : BusCtl.reset.word = 0 := by decide
  exact ⟨_, step_reset hd hq, rfl, rfl, rfl, rfl, rfl, rfl, rfl, rfl, rfl, rfl, rfl, rfl, rfl, rfl, rfl, rfl, rfl, rfl,
    rfl, rfl, rfl, hbus, rfl, rfl, rfl, rfl, rfl, rfl⟩

/-! ### Accesses to the window -/

/-- A Host store to the window: a register write, or REG_ACCESS (R33). -/
theorem hostStore_window {s : State} {addr v : Word} {width : Width} {off : Nat}
    (hoff : windowOffset s.params addr = some off) :
    hostStore addr width v s = .next (if goodAccess off width then regWrite off v s else raiseFault .regAccess s) := by
  simp only [hostStore, hoff]

/-- A Host load from the window: the register's value, or REG_ACCESS and 0 (R33, R321). -/
theorem hostLoad_window {s : State} {addr : Word} {width : Width} {off : Nat}
    (hoff : windowOffset s.params addr = some off) :
    hostLoad addr width s =
      .next (if goodAccess off width then loadReg off s else { raiseFault .regAccess s with rdata := 0 }) := by
  simp only [hostLoad, hoff]

/-- An access of the window that is not 32-bit and aligned (R33). -/
theorem goodAccess_bad {off : Nat} {width : Width} (h : width ≠ .w32 ∨ off % 4 ≠ 0) : ¬goodAccess off width = true := by
  simpa [goodAccess, imp_iff_not_or] using h

/-- A 32-bit access of the window at a multiple of 4 (R33). -/
theorem goodAccess_good {off : Nat} (h : off % 4 = 0) : goodAccess off .w32 = true := by
  simp [goodAccess, h]

/-! ### Raising a fault -/

/-- The first fault, in whatever the block was doing: CRC7 and CRC16 are dropped where an operation ran, and the rest is
as with none (R321, R322). -/
theorem raiseFault_first (code : FaultCode) {s : State} (hf : s.status.fault = false) :
    raiseFault code s = { s with
      faultCode := code
      status := s.status.halted
      cont := .idle
      bus := s.bus.only false
      init := { s.init with phase := .idle }
      wire := s.wire ++ s.releaseEvents
      crc7 := (dropRunningCrc s).crc7, crc16 := (dropRunningCrc s).crc16, draws := (dropRunningCrc s).draws } := by
  have hwire : (if s.bus.cs = false then s.wire else s.wire ++ [.csChange false]) = s.wire ++ s.releaseEvents := by
    unfold State.releaseEvents
    cases s.bus.cs <;> simp
  rw [raiseFault_eq code s hf, hwire]
  rfl

/-! ### The launch -/

/-- An operation that finds the bus, the card and chip-select it needs misses an admitted buffer (R316). -/
theorem missing_dmaBusError {n : Needs} {s : State} (hn : n.buffer = true) (hb : n.bus = true → s.bus.busEn = true)
    (hr : n.ready = true → s.status.cardState = .ready) (hc : n.cs = true → s.bus.cs = true)
    (hbuf : ¬s.bufferAdmitted) : missing n s = some .dmaBusError := by
  have hbad : bufferOk s = false := by
    rwa [← Bool.not_eq_true, bufferOk_iff]
  simp only [missing, hn, hbad]
  rw [if_neg (by simpa using hb), if_neg (by simpa using hr), if_neg (by simpa using hc)]
  rfl

/-- What an operation does after its launch leaves the latch, FAULTCODE and FAULT alone. -/
theorem launchGo_latch (i : Instr) (s : State) :
    (launchGo i s).lat = s.lat ∧ (launchGo i s).faultCode = s.faultCode ∧
      (launchGo i s).status.fault = s.status.fault := by
  cases i <;> simp only [launchGo]
  case setSpeed => split <;> exact ⟨rfl, rfl, rfl⟩
  all_goals simp [finishOk, armData, setCardState]

/-- Every write to OPCODE goes through the check order of R316. -/
theorem exec_launchGate {i : Instr} (hi : Instr.isOperation i) :
    ∃ check go, ∀ s, exec i s = launchGate check go s := by
  obtain hop | hres := hi
  · obtain ⟨op, hop⟩ := Option.isSome_iff_exists.mp hop
    exact ⟨_, _, exec_operation hop⟩
  · exact ⟨_, _, exec_reserved hres⟩

/-- Where a launch is accepted, the first requirement that an operation misses raises its fault (R316). -/
theorem exec_missing {i : Instr} {op : BitVec 5} {s : State} {code : FaultCode} (hop : opCode i = some op)
    (ha : s.accepting) (hm : missing (launchRow i) s = some code) : exec i s = .next (raiseFault code s) := by
  rw [exec_operation hop]
  exact launchGate_check ha.1 ha.2 hm

/-- An operation that needs a Ready card or chip-select needs the bus (R313). -/
theorem launchRow_bus {i : Instr} (h : (launchRow i).ready = true ∨ (launchRow i).cs = true) :
    (launchRow i).bus = true := by
  cases i
  case stopTran | readBlock | writeBlock | busyWait => rfl
  all_goals exact absurd h (by simp [launchRow])

/-- A write to OPCODE reads bits 4:0 alone (R100). -/
theorem decode_wordBytes_low (v : Word) : decode (wordBytes v) = decode (wordBytes (v &&& 0x1F)) := by
  have hlow : (v &&& 0x1F).extractLsb' 0 5 = v.extractLsb' 0 5 := by
    ext j hj
    have hbit : (0x1F#32).getLsbD j = true := by
      interval_cases j <;> rfl
    simpa using fun _ => hbit
  rw [decode_wordBytes, decode_wordBytes, decodeOperation, decodeOperation, hlow]

/-- Settles O12: the gate, then the requirements of the operation's row in their order, then the launch. -/
theorem launchCheckOrder : Obligations.LaunchCheckOrder := by
  refine ⟨fun i s hi => ?_, fun code s => raiseFault_lat code s, decode_wordBytes_low,
    fun s addr width v rest hd hq hoff hwidth => ?_⟩
  · obtain ⟨check, go, hgate⟩ := exec_launchGate hi
    refine ⟨fun hf => ?_, fun hf hb => ?_, fun ha hres => exec_reserved_accepting hres ha, fun ha hres => ?_⟩
    · rw [hgate, launchGate, if_pos hf]
    · rw [hgate, launchGate, if_neg (by simp [hf]), if_pos hb]
    · obtain ⟨op, hop⟩ := Option.isSome_iff_exists.mp (hi.resolve_right (by simp [hres]))
      refine ⟨fun hn => exec_busDisabled hn ha, fun hb hn hr => ?_, fun hb hr hn hc => ?_, fun hb hr hc hn hbuf => ?_,
        fun hok => ?_⟩
      · exact exec_missing hop ha (missing_notReady hn (hb (launchRow_bus (.inl hn))) hr)
      · exact exec_missing hop ha (missing_notSelected hn (hb (launchRow_bus (.inr hn))) hr hc)
      · exact exec_missing hop ha (missing_dmaBusError hn hb hr hc hbuf)
      · obtain ⟨hlat, hcode, hfault⟩ := launchGo_latch i (latchOperands op s)
        exact ⟨_, op, hop, exec_launchOk hop ha hok, hlat, hcode, hfault.trans ha.1⟩
  · rw [step_store hd hq fun _ => hwidth, hostStore_window (by exact hoff), if_neg (goodAccess_bad (.inl hwidth))]

/-- An operation without requirements (R313). -/
theorem launchOk_free {i : Instr} {s : State} (h : launchRow i = {}) : launchOk i s := by
  simp [launchOk, h]

/-- Settles O13: what each operation does once its requirements hold. -/
theorem launchActions : Obligations.LaunchActions := by
  intro s ha
  exact ⟨exec_launchOk rfl ha, exec_launchOk rfl ha, exec_launchOk rfl ha, exec_launchOk rfl ha, exec_launchOk rfl ha,
    exec_launchOk rfl ha, exec_launchOk rfl ha, exec_launchOk rfl ha, exec_launchOk rfl ha (launchOk_free rfl),
    fun op c hc => (busy_iff _).mpr hc⟩

/-! ### BUS_DISABLE -/

/-- BUS_DISABLE where a launch is accepted (R147). -/
theorem exec_busDisable {s : State} (ha : s.accepting) : exec .busDisable s = .next { s with
    lat := s.latchFor 0x02, status := { s.status.completed with cardState := .uninitialized }
    bus := s.bus.only false, wire := s.wire ++ s.releaseEvents } := by
  have hdone : launchGo .busDisable (latchOperands 0x02 s) = _ :=
    congrArg (fun q => finishOk (setCardState .uninitialized q)) (resetBus_eq false (latchOperands 0x02 s))
  rw [exec_launchOk rfl ha (launchOk_free rfl), hdone]
  simp only [finishOk, setCardState, Status.completed, ← ha.2]
  rfl

/-- A disabled bus at its level alone (R147). -/
theorem only_word (b : BusCtl) : (b.only false).word = b.level.setWidth 32 <<< 4 := by
  unfold BusCtl.word BusCtl.only
  ext j hj
  simp
  grind

/-- Settles O18. -/
theorem busDisable : Obligations.BusDisable := by
  refine ⟨fun v => decode_of_opCode rfl, fun s => exec_busDisable,
    fun s ha _ hlevel => ⟨_, exec_busDisable ha, ?_, rfl⟩,
    fun s ha => ⟨_, exec_busDisable ha, only_word s.bus⟩⟩
  rw [only_word, hlevel]
  decide

end Sys2Proof.Proofs
end

section
/-! PROOFS. The Host's accesses: what a read of a register returns and a write to one does (R32 to R47), the access
rule of the window (R33), the buffer race (R91), and stores, loads and barriers of system memory (R80, R81, R94). -/
namespace Sys2Proof.Proofs
open Sys2Proof.Machine Sys2Proof.Laws

/-! ### The fields of the registers -/

/-- The flags of STATUS as a read returns them (R35). -/
theorem statusWord_flags (s : State) :
    s.statusWord.getLsbD 0 = s.busy ∧ s.statusWord.getLsbD 1 = s.status.done ∧
    s.statusWord.getLsbD 2 = s.status.err ∧ s.statusWord.getLsbD 3 = s.status.xfer ∧
    s.statusWord.getLsbD 4 = s.status.poll ∧ s.statusWord.getLsbD 5 = s.status.fault := by
  simp only [State.statusWord, BitVec.getLsbD_append]
  simp

/-- The codes of STATUS as a read returns them (R35). -/
theorem statusWord_codes (s : State) :
    s.statusWord.extractLsb' 6 2 = s.status.cardState.code ∧ s.statusWord.extractLsb' 8 4 = s.status.errCode.code ∧
    s.statusWord.extractLsb' 12 4 = s.init.phase.code ∧ s.statusWord.extractLsb' 16 16 = 0 := by
  unfold State.statusWord
  refine ⟨?_, ?_, ?_, ?_⟩ <;>
    simp (disch := decide) only [BitVec.extractLsb'_append_eq_of_le, BitVec.extractLsb'_append_eq_of_add_le] <;> simp

/-- The fields of BUSCTL as a read returns them (R46). -/
theorem busWord_fields (b : BusCtl) :
    b.word.getLsbD 0 = b.busEn ∧ b.word.getLsbD 1 = b.cs ∧ b.word.getLsbD 2 = b.speedOp ∧
    b.word.getLsbD 3 = b.width32 ∧ b.word.extractLsb' 4 2 = b.level ∧ b.word.extractLsb' 6 26 = 0 := by
  simp (disch := decide) only [BusCtl.word, BitVec.getLsbD_append, BitVec.extractLsb'_append_eq_of_le,
    BitVec.extractLsb'_append_eq_of_add_le]
  simp

/-- The fields of CONFIG as a read returns them (R36). -/
theorem configWord_fields (c : ConfigReg) :
    c.word.getLsbD 0 = c.ie ∧ c.word.extractLsb' 1 3 = 0 ∧ c.word.extractLsb' 4 2 = c.level ∧
    c.word.extractLsb' 6 26 = 0 := by
  simp (disch := decide) only [ConfigReg.word, BitVec.getLsbD_append, BitVec.extractLsb'_append_eq_of_le,
    BitVec.extractLsb'_append_eq_of_add_le]
  simp

/-- The fields of CMDIDX as a read returns them (R37). -/
theorem cmdIdxWord_fields (c : CmdIdxReg) :
    c.word.extractLsb' 0 6 = c.idx ∧ c.word.extractLsb' 6 2 = 0 ∧ c.word.extractLsb' 8 2 = c.rtype.code ∧
    c.word.extractLsb' 10 22 = 0 := by
  simp (disch := decide) only [CmdIdxReg.word, BitVec.extractLsb'_append_eq_of_le,
    BitVec.extractLsb'_append_eq_of_add_le]
  simp

/-- A 32-bit load of a register (R33, R55). -/
theorem step_loadReg {s : State} {addr : Word} {off : Nat} {rest : List HostAction} (hd : s.params.inDomain = true)
    (hq : s.hostq = .load addr .w32 :: rest) (hoff : windowOffset s.params addr = some off) (halign : off % 4 = 0) :
    step s = .next (loadReg off { s with hostq := rest }) := by
  rw [step_load hd hq, hostLoad_window (by exact hoff), if_pos (goodAccess_good halign)]

/-- Settles O55. -/
theorem registerReads : Obligations.RegisterReads := by
  refine ⟨fun s addr off rest hd hq hoff halign => ⟨_, step_loadReg hd hq hoff halign, rfl, ?_⟩, fun s => ?_⟩
  · simp [loadReg, afterRead]
  · obtain ⟨hbusy, hdone, herr, hxfer, hpoll, hfault⟩ := statusWord_flags s
    exact ⟨rfl, ⟨hbusy, hdone, herr, hxfer, hpoll, hfault, statusWord_codes s⟩, configWord_fields s.config,
      cmdIdxWord_fields s.cmdIdx, rfl, rfl, rfl, rfl, rfl, rfl, fun hb => by simp [regValue, hb], busWord_fields s.bus,
      rfl, rfl, rfl⟩

/-! ### Writes to the registers -/

/-- A write to a read-only register or a reserved offset is ignored (R33). -/
theorem regWrite_readOnly {off : Nat} (h : 0x1C ≤ off) (v : Word) (s : State) : regWrite off v s = s := by
  unfold regWrite
  split
  · rfl
  · split
    case h_7 => rfl
    all_goals omega

/-- A 32-bit store to a register other than OPCODE (R33). -/
theorem step_regWrite {s : State} {addr v : Word} {off : Nat} {rest : List HostAction} (hd : s.params.inDomain = true)
    (hq : s.hostq = .store addr .w32 v :: rest) (hoff : windowOffset s.params addr = some off) (halign : off % 4 = 0)
    (hop : off ≠ 0) : step s = .next (regWrite off v { s with hostq := rest }) := by
  rw [step_store hd hq (by simp [hoff, hop]), hostStore_window (by exact hoff), if_pos (goodAccess_good halign)]

/-- RTYPE's code is read back from it (R37). -/
theorem respType_code_ofCode (c : BitVec 2) : (RespType.ofCode c).code = c := by
  revert c
  decide

/-- Settles O56. -/
theorem registerWrites : Obligations.RegisterWrites := by
  intro s addr v off rest hd hq hoff halign hop
  have hstep := step_regWrite hd hq hoff halign hop
  refine ⟨fun hf => ?_, fun hf => ⟨?_, ?_, ?_, ?_, ?_, ?_, fun hro => ?_⟩⟩
  · rw [hstep, regWrite_faulted off v (by exact hf)]
  · rintro rfl
    rw [hstep, regWrite_status v (by exact hf)]
    rfl
  · rintro rfl
    exact ⟨ConfigReg.ofWord v, rfl, rfl, by rw [hstep, regWrite_config v (by exact hf)]⟩
  · rintro rfl
    exact ⟨CmdIdxReg.ofWord v, rfl, respType_code_ofCode _, by rw [hstep, regWrite_cmdIdx v (by exact hf)]⟩
  · rintro rfl
    rw [hstep, regWrite_cmdArg v (by exact hf)]
  · rintro rfl
    rw [hstep, regWrite_data v (by exact hf)]
  · rintro rfl
    rw [hstep, regWrite_bufAddr v (by exact hf)]
  · rw [hstep, regWrite_readOnly hro]

/-- Settles O57: the fault is the one of `raiseFault_first`. -/
theorem regAccessRule : Obligations.RegAccessRule := by
  intro s addr width off rest hd hoff hbad hf
  refine ⟨fun v hq => ⟨raiseFault .regAccess { s with hostq := rest }, ?_, ?_⟩,
    fun hq => ⟨{ raiseFault .regAccess { s with hostq := rest } with rdata := 0 }, ?_, ?_⟩⟩
  · have hop : windowOffset s.params addr = some 0 → width ≠ .w32 := by
      rw [hoff]
      rintro ⟨rfl⟩
      exact hbad.resolve_right (by simp)
    rw [step_store hd hq hop, hostStore_window (by exact hoff), if_neg (goodAccess_bad hbad)]
  · rw [raiseFault_first _ (by exact hf)]
    exact ⟨rfl, rfl, rfl, rfl, rfl, rfl, rfl, rfl, rfl⟩
  · rw [step_load hd hq, hostLoad_window (by exact hoff), if_neg (goodAccess_bad hbad)]
  · rw [raiseFault_first _ (by exact hf)]
    exact ⟨rfl, rfl, rfl, rfl⟩

/-! ### System memory -/

/-- A Host store outside the window (R80). -/
theorem step_memStore {s : State} {addr v : Word} {width : Width} {rest : List HostAction}
    (hd : s.params.inDomain = true) (hq : s.hostq = .store addr width v :: rest)
    (hw : windowOffset s.params addr = none) : step s = memStore addr.toNat width v { s with hostq := rest } := by
  rw [step_store hd hq (by simp [hw])]
  simp only [hostStore, hw]

/-- A Host load outside the window (R80). -/
theorem step_memLoad {s : State} {addr : Word} {width : Width} {rest : List HostAction}
    (hd : s.params.inDomain = true) (hq : s.hostq = .load addr width :: rest)
    (hw : windowOffset s.params addr = none) : step s = memLoad addr.toNat width { s with hostq := rest } := by
  rw [step_load hd hq]
  simp only [hostLoad, hw]

/-- An access touches the buffer the Engine owns (R90, R91). -/
theorem touchesOwned_iff (a n : Nat) (s : State) : touchesOwned a n s = true ↔
    s.status.xfer = true ∧ ∃ j < n, s.lat.buf.toNat ≤ a + j ∧ a + j ≤ s.lat.buf.toNat + 511 := by
  simp [touchesOwned, Latch.owns]

/-- An access outside the latched buffer touches none the Engine owns (R91). -/
theorem touchesOwned_outside {a n : Nat} {s : State} (h : s.status.xfer = true → s.outsideBuffer a n) :
    touchesOwned a n s = false := by
  rw [← Bool.not_eq_true, touchesOwned_iff]
  rintro ⟨hxfer, j, hj, hlow, hhigh⟩
  have hout := h hxfer j hj
  omega

/-- Settles O59. -/
theorem bufferRace : Obligations.BufferRace := by
  intro s addr width rest j hd hw hxfer hj hlow hhigh
  have htouch : touchesOwned addr.toNat width.bytes { s with hostq := rest } = true :=
    (touchesOwned_iff ..).mpr ⟨hxfer, j, hj, hlow, hhigh⟩
  refine ⟨fun v hq => ?_, fun hq hop => ?_, fun hq hop hadm => ?_⟩
  · rw [step_memStore hd hq hw, memStore, if_pos htouch]
  · rw [step_memLoad hd hq hw, memLoad, if_pos (by simp [htouch, hop, readBlockCode])]
  · rw [step_memLoad hd hq hw, memLoad, if_neg (by simp [hop, readBlockCode]), if_pos (by exact hadm)]
    exact ⟨_, rfl⟩

/-- An admitted Host store that touches no byte the Engine owns (R80, R91). -/
theorem step_memStore_free {s : State} {addr v : Word} {width : Width} {rest : List HostAction}
    (hd : s.params.inDomain = true) (hq : s.hostq = .store addr width v :: rest)
    (hw : windowOffset s.params addr = none) (hadm : memAdmits s.params addr.toNat width.bytes = true)
    (hout : s.status.xfer = true → s.outsideBuffer addr.toNat width.bytes) :
    step s = .next (storeBytes addr.toNat ((wordBytes v).take width.bytes) { s with hostq := rest }) := by
  have hfree : touchesOwned addr.toNat width.bytes { s with hostq := rest } = false :=
    touchesOwned_outside (by exact hout)
  rw [step_memStore hd hq hw, memStore, if_neg (by simp [hfree]), if_pos (by exact hadm)]

/-- An admitted Host load that touches no byte the Engine owns, or that READ_BLOCK does not write (R80, R91). -/
theorem step_memLoad_free {s : State} {addr : Word} {width : Width} {rest : List HostAction}
    (hd : s.params.inDomain = true) (hq : s.hostq = .load addr width :: rest)
    (hw : windowOffset s.params addr = none) (hadm : memAdmits s.params addr.toNat width.bytes = true)
    (hout : s.status.xfer = true → s.outsideBuffer addr.toNat width.bytes ∨ s.lat.op ≠ 0x0E) :
    step s = .next { (loadBytes width.bytes addr.toNat { s with hostq := rest }).2 with
      rdata := BitVec.ofNat 32 (loadBytes width.bytes addr.toNat { s with hostq := rest }).1 } := by
  have hfree : touchesOwned addr.toNat width.bytes { s with hostq := rest } = true → s.lat.op ≠ readBlockCode := by
    intro htouch hop
    have hxfer : s.status.xfer = true := ((touchesOwned_iff ..).mp htouch).1
    rw [touchesOwned_outside (by exact fun _ => (hout hxfer).resolve_right (not_not_intro hop))] at htouch
    cases htouch
  rw [step_memLoad hd hq hw, memLoad, if_neg (by simpa using hfree), if_pos (by exact hadm)]

/-! ### A Host store -/

/-- An access is of at most four bytes. -/
theorem width_bytes_le (width : Width) : width.bytes ≤ 4 := by
  cases width <;> decide

/-- The bytes of a word, least significant first (R81). -/
theorem wordBytes_getElem (v : Word) {j : Nat} (hj : j < (wordBytes v).length) :
    (wordBytes v)[j] = v.extractLsb' (8 * j) 8 := by
  have hj : j < 4 := hj
  interval_cases j <;> rfl

/-- The bytes a Host store writes (R81). -/
theorem storedBytes_length (width : Width) (v : Word) : ((wordBytes v).take width.bytes).length = width.bytes := by
  cases width <;> rfl

/-- The Host's stores that no barrier has ordered, after one more (R94). -/
theorem mem_storeBytes_hostStores (x : Nat) (bs : List Byte) (a : Nat) (s : State) :
    x ∈ (storeBytes a bs s).hostStores ↔ x ∈ s.hostStores ∨ a ≤ x ∧ x < a + bs.length := by
  induction bs generalizing a s with
  | nil => simp [storeBytes]
  | cons b bs ih =>
    rw [storeBytes, ih]
    simp only [mem_addAddr, List.length_cons]
    grind

/-- The Engine's stores that no barrier has ordered, after a Host store (R94). -/
theorem mem_storeBytes_engStores (x : Nat) (bs : List Byte) (a : Nat) (s : State) :
    x ∈ (storeBytes a bs s).engStores ↔ x ∈ s.engStores ∧ ¬(a ≤ x ∧ x < a + bs.length) := by
  induction bs generalizing a s with
  | nil => simp [storeBytes]
  | cons b bs ih =>
    rw [storeBytes, ih]
    simp only [List.mem_filter, List.length_cons, bne_iff_ne]
    grind

/-! ### A Host load -/

/-- A load of n bytes is a number of n bytes. -/
theorem loadBytes_lt (n a : Nat) (s : State) : (loadBytes n a s).1 < 256 ^ n := by
  induction n generalizing a s with
  | zero => simp [loadBytes]
  | succ n ih =>
    have hbyte : ∀ b : Byte, b.toNat < 256 := fun b => b.isLt
    rw [loadBytes, Nat.pow_succ]
    split
    · have hv := ih (a + 1) { s with draws := s.draws + 1 }
      have hb := hbyte (Config.unorderedByte s.draws)
      simp only
      omega
    · have hv := ih (a + 1) s
      have hb := hbyte (s.mem.read a)
      simp only
      omega

/-- An ordered byte of a load is the byte of memory (R81, R94). -/
theorem loadBytes_byte {n j : Nat} (hj : j < n) (a : Nat) (s : State) (hord : a + j ∉ s.engStores) :
    (loadBytes n a s).1 / 256 ^ j % 256 = (s.mem.read (a + j)).toNat := by
  induction n generalizing j a s with
  | zero => omega
  | succ n ih =>
    rw [loadBytes]
    cases j with
    | zero =>
      rw [if_neg (by simpa using hord)]
      have hb : (s.mem.read a).toNat < 256 := BitVec.isLt _
      simp only [Nat.add_zero, Nat.pow_zero, Nat.div_one]
      omega
    | succ j =>
      have hshift : ∀ (b : Byte) (v : Nat), (b.toNat + 256 * v) / 256 ^ (j + 1) = v / 256 ^ j := by
        intro b v
        have hb : b.toNat < 256 := b.isLt
        rw [Nat.pow_succ', ← Nat.div_div_eq_div_mul]
        congr 1
        omega
      have haddr : a + (j + 1) = a + 1 + j := by omega
      rw [haddr] at hord ⊢
      split <;> rw [hshift]
      · exact ih (by omega) (a + 1) _ hord
      · exact ih (by omega) (a + 1) s hord

/-- A byte of a word that was read as a number. -/
theorem byte_ofNat {v : Nat} (hv : v < 2 ^ 32) (j : Nat) :
    ((BitVec.ofNat 32 v).extractLsb' (8 * j) 8).toNat = v / 256 ^ j % 256 := by
  rw [BitVec.extractLsb'_toNat, BitVec.toNat_ofNat, Nat.mod_eq_of_lt hv, Nat.shiftRight_eq_div_pow, Nat.pow_mul]

/-- The value a Host load returns, byte by byte (R81, R94). -/
theorem loadBytes_rdata (width : Width) (a : Nat) (s : State) :
    (∀ j, j < width.bytes → a + j ∉ s.engStores →
      (BitVec.ofNat 32 (loadBytes width.bytes a s).1).extractLsb' (8 * j) 8 = s.mem.read (a + j)) ∧
    (∀ j, width.bytes ≤ j → (BitVec.ofNat 32 (loadBytes width.bytes a s).1).extractLsb' (8 * j) 8 = 0) := by
  have hlt := loadBytes_lt width.bytes a s
  have hword : (loadBytes width.bytes a s).1 < 2 ^ 32 :=
    hlt.trans_le (Nat.pow_le_pow_right (by decide) (width_bytes_le width) : _ ≤ 256 ^ 4)
  refine ⟨fun j hj hord => BitVec.eq_of_toNat_eq ?_, fun j hj => BitVec.eq_of_toNat_eq ?_⟩
  · rw [byte_ofNat hword, loadBytes_byte hj a s hord]
  · rw [byte_ofNat hword, Nat.div_eq_of_lt (hlt.trans_le (Nat.pow_le_pow_right (by decide) hj))]
    rfl

/-! ### Barriers -/

/-- A barrier (R94). -/
theorem step_dmb {s : State} {rest : List HostAction} (hd : s.params.inDomain = true) (hq : s.hostq = .dmb :: rest) :
    step s = .next (hostBarrier { s with hostq := rest }) :=
  step_of_event hd (by simp only [fetch, hq])

/-- Settles O60. -/
theorem hostMemory : Obligations.HostMemory := by
  refine ⟨fun s addr width rest hd hwf hw hadm => ⟨fun v hq hout => ?_, fun hq hout => ?_⟩, fun s rest hd hq => ?_,
    fun s addr rest hd hq hoff hseen => ?_⟩
  · have hstep := step_memStore_free hd hq hw hadm hout
    have hlen := storedBytes_length width v
    refine ⟨_, hstep, fun j hj => ?_, fun a ha => ?_, fun a => ⟨?_, ?_⟩, storeBytes_eq ..⟩
    · rw [storeBytes_read_stored _ _ j _ (hlen.symm ▸ hj) (by exact hwf), List.getElem_take, wordBytes_getElem]
    · exact storeBytes_read_other _ _ a _ (hlen.symm ▸ ha)
    · rw [mem_storeBytes_hostStores, hlen]
    · rw [mem_storeBytes_engStores, hlen]
  · have hstep := step_memLoad_free hd hq hw hadm hout
    obtain ⟨hbytes, hzeros⟩ := loadBytes_rdata width addr.toNat { s with hostq := rest }
    obtain ⟨d, hd⟩ := loadBytes_draws width.bytes addr.toNat { s with hostq := rest }
    refine ⟨_, hstep, hbytes, hzeros, ?_, fun hord => ?_⟩
    · rw [hd]
    · rw [loadBytes_ordered _ _ _ (by simpa using hord)]
  · refine ⟨_, step_dmb hd hq, rfl, fun a => ?_, rfl⟩
    simp [hostBarrier]
  · have hload := step_loadReg hd hq hoff rfl
    refine ⟨_, _, hload, step_dmb (by exact hd) rfl, ?_, rfl, rfl⟩
    have hall : (s.status.done || !s.status.xfer) = true := by simpa using hseen
    simp [hostBarrier, loadReg, afterRead, hall]

end Sys2Proof.Proofs
end

section
/-! PROOFS. The token rows (R115, R117, R120): a token is one Engine step, sent where the Engine is about to send it and
answered by the Card elsewhere. -/
namespace Sys2Proof.Proofs
open Sys2Proof.Machine Sys2Proof.Laws

/-! ### A token on the bus -/

/-- The instructions that are tokens. -/
def Instr.isToken (i : Instr) : Prop :=
  i = .startToken ∨ i = .startTokenMulti ∨ i = .stopToken ∨ ∃ x y, i = .dataResponse x y

/-- A token row puts its byte on the bus (R115, R117). -/
theorem exec_token {i : Instr} {b : Byte} (hi : Instr.isToken i) (henc : encode i = [b]) (s : State) :
    exec i s = tokenOnBus b s := by
  obtain rfl | rfl | rfl | ⟨x, y, rfl⟩ := hi <;> cases henc <;> rfl

/-- No token is a fill byte. -/
theorem token_ne_fill {i : Instr} {b : Byte} (hi : Instr.isToken i) (henc : encode i = [b]) : b ≠ 0xFF := by
  obtain rfl | rfl | rfl | ⟨x, y, rfl⟩ := hi <;> cases henc
  case inr.inr.inr =>
    revert x y
    decide
  all_goals decide

/-- A token the Engine is about to send (R120). -/
theorem tokenOnBus_sent {b : Byte} {s : State} (hb : s.cont ≠ .idle) (htx : engineTx (enginePrepare s) = some b) :
    tokenOnBus b s = engineStep s := by
  rw [tokenOnBus, if_pos ((busy_iff s).mpr hb), if_pos htx]

/-- A token the Engine is not about to send answers its exchange (R120). -/
theorem tokenOnBus_answer {b : Byte} {s : State} (hb : s.cont ≠ .idle) (htx : engineTx (enginePrepare s) ≠ some b) :
    tokenOnBus b s = engineStep { s with card := b :: s.card } := by
  rw [tokenOnBus, if_pos ((busy_iff s).mpr hb), if_neg htx]

/-- An operation past its start runs with no fault on an enabled bus. -/
theorem inv_running {s : State} (h : s.Inv) (hb : s.cont ≠ .idle) (hstart : s.cont ≠ .initClocks 0) :
    s.status.fault = false ∧ s.bus.busEn = true :=
  ⟨Bool.eq_false_iff.mpr fun hf => hb (h.faultHalts hf).1, (h.busyHasBus hb).resolve_right hstart⟩

/-- A running operation other than INIT is latched as such. -/
theorem inv_not_init {s : State} (h : s.Inv) (hb : s.cont ≠ .idle) (hi : s.cont.runsInit = false) :
    s.lat.op ≠ initCode := by
  rw [Ne, h.opInit hb, hi]
  decide

/-- In a state of the invariant a token row answers a next state. -/
theorem tokenOnBus_next {s : State} (h : s.Inv) (b : Byte) : ∃ t, tokenOnBus b s = .next t := by
  obtain hidle | hstep | hanswer := tokenOnBus_cases b s
  · exact ⟨s, hidle⟩
  · rw [hstep]
    exact noModelFault s h
  · rw [hanswer]
    exact noModelFault _ (inv_of_script h s.hostq (b :: s.card))

/-- A token in READ_BLOCK's wait or in WRITE_BLOCK's answers a fill byte. -/
theorem tokenOnBus_polled {b : Byte} {s : State} (hfill : b ≠ 0xFF)
    (hc : (∃ k, s.cont = .tokenWait k) ∨ ∃ k, s.cont = .writeResp k) :
    tokenOnBus b s = engineStep { s with card := b :: s.card } := by
  have htx : engineTx (enginePrepare s) = some 0xFF := by
    obtain ⟨k, hc⟩ | ⟨k, hc⟩ := hc <;> simp [engineTx, enginePrepare, hc, fill]
  refine tokenOnBus_answer (by obtain ⟨k, hc⟩ | ⟨k, hc⟩ := hc <;> simp [hc]) ?_
  rw [htx]
  exact fun h => hfill (Option.some.inj h).symm

/-- WRITE_BLOCK's start token as a row (R240, R241). -/
theorem tokenOnBus_writeToken {rx : Byte} {rest : List Byte} {s : State} (hf : s.status.fault = false)
    (hu : s.bus.busEn = true) (hc : s.cont = .writeToken) (hcard : s.card = rx :: rest) :
    tokenOnBus s.lat.startToken s = .next { s with
      cont := .writeData 0, card := rest, wire := s.wire ++ exchanges s.bus.cs s.bus [s.lat.startToken] [rx] } := by
  rw [tokenOnBus_sent (by simp [hc]) (by simp [engineTx, enginePrepare, hc]), engineStep_writeToken hf hu hc hcard]

/-! ### The rows -/

/-- Settles O37: each row by the Engine's step at its program point. -/
theorem tokenRows : Obligations.TokenRows := by
  refine ⟨fun s i b hi henc => ?_, fun s k hf hu hc => ?_,
    fun s rx rest hf hu hc hcard => ⟨fun hbit => ?_, fun hbit => ?_⟩,
    fun s rx rest hf hu hc hcard => ?_, fun s k x y b h hc hb => ?_⟩
  · simp only [exec_token hi henc]
    refine ⟨fun h => tokenOnBus_next h b, tokenOnBus_idle, tokenOnBus_sent, tokenOnBus_answer, fun k h hc hstart => ?_⟩
    have hfill := token_ne_fill hi henc
    obtain ⟨hf, hu⟩ := inv_running h (by simp [hc]) (by simp [hc])
    have hop := inv_not_init h (by simp [hc]) (by simp [hc])
    rw [tokenOnBus_polled hfill (.inl ⟨k, hc⟩),
      engineStep_tokenWait_fails (by exact hf) (by exact hu) (by exact hc) (.inr ⟨rfl, hfill, hstart⟩) rfl,
      tokenFail_eq _ _ (by exact hop)]
    rfl
  · rw [exec_token (.inl rfl) rfl, tokenOnBus_polled (by decide) (.inl ⟨k, hc⟩),
      engineStep_tokenWait_found (by exact hf) (by exact hu) (by exact hc) rfl]
  · have htoken : s.lat.startToken = 0xFE := by
      simp only [Latch.startToken, Latch.bit0, hbit, Bool.false_eq_true, if_false, startTokenByte]
    rw [exec_token (.inl rfl) rfl, ← htoken, tokenOnBus_writeToken hf hu hc hcard]
  · have htoken : s.lat.startToken = 0xFC := by
      simp only [Latch.startToken, Latch.bit0, hbit, if_true, startTokenMultiByte]
    rw [exec_token (.inr (.inl rfl)) rfl, ← htoken, tokenOnBus_writeToken hf hu hc hcard]
  · rw [exec_token (.inr (.inr (.inl rfl))) rfl,
      tokenOnBus_sent (by simp [hc]) (by simp [engineTx, enginePrepare, hc, stopTokenByte]),
      engineStep_stopToken hf hu hc hcard]
  · have hi : Instr.isToken (.dataResponse x y) := .inr (.inr (.inr ⟨x, y, rfl⟩))
    have henc : encode (.dataResponse x y) = [b] := congrArg (fun b => [b]) hb.symm
    have hfill := token_ne_fill hi henc
    obtain ⟨hf, hu⟩ := inv_running h (by simp [hc]) (by simp [hc])
    have hop := inv_not_init h (by simp [hc]) (by simp [hc])
    rw [exec_token hi henc, tokenOnBus_polled hfill (.inr ⟨k, hc⟩)]
    refine ⟨fun haccept => ?_, fun hreject => ?_⟩
    · rw [engineStep_writeResp_accepted (by exact hf) (by exact hu) (by exact hc) hfill haccept rfl]
    · rw [engineStep_writeResp_fails (by exact hf) (by exact hu) (by exact hc) (.inr ⟨rfl, hfill, hreject⟩) rfl,
        finishErr_eq _ (by exact hop)]
      rfl

end Sys2Proof.Proofs
end

section
/-! PROOFS. INIT (R270 to R290): its start and idle clocks, what each phase concludes from its command, phase f, how
INIT ends, and the cooperative card's run. -/
namespace Sys2Proof.Proofs
open Sys2Proof.Machine Sys2Proof.Laws

/-! ### Phase f and the cooperative card -/

/-- Settles O40. -/
theorem initSpeedUp : Obligations.InitSpeedUp := by
  intro s p hc
  rw [engineStep_quiet (by simp [hc]) (by simp [engineTx, hc])]
  simp only [engineQuiet, enginePrepare, hc, initEnter]

/-- The state reached from r in n Engine steps is a next state that meets P. -/
def reaches (n : Nat) (P : State → Prop) [DecidablePred P] : Result → Bool
  | .next t => match engineRun n t with
    | .next u => decide (P u)
    | .fault _ | .refused _ => false
  | .fault _ | .refused _ => false

/-- A run that was computed. -/
theorem exists_of_reaches {n : Nat} {P : State → Prop} [DecidablePred P] {r : Result} (h : reaches n P r = true) :
    ∃ t u, r = .next t ∧ engineRun n t = .next u ∧ P u := by
  cases r with
  | next t =>
    simp only [reaches] at h
    split at h
    · exact ⟨t, _, rfl, ‹_›, of_decide_eq_true h⟩
    all_goals cases h
  | fault | refused => cases h

/-- Settles O41: the run is computed. -/
theorem initCooperative : Obligations.InitCooperative :=
  exists_of_reaches (by decide +kernel)

/-! ### The idle clocks -/

/-- INIT's start: the bus reset, CARD_STATE and the counters (R272). -/
theorem initStart_eq (s : State) : initStart s = { s with
    status := { s.status with cardState := .uninitialized }
    bus := s.bus.only true
    init := { phase := .clocks, attempt := 0, absent := 0 }
    wire := s.wire ++ s.releaseEvents } := by
  rw [initStart, resetBus_eq]

/-- The step of INIT's first exchange (R272, R274). -/
theorem engineStep_initClocks_first {rx : Byte} {rest : List Byte} {s : State} (hf : s.status.fault = false)
    (hc : s.cont = .initClocks 0) (hn : 1 < s.params.idleClockBytes) (hcard : s.card = rx :: rest) :
    engineStep s = .next { s with
      status := { s.status with cardState := .uninitialized }
      bus := s.bus.only true
      init := { phase := .clocks, attempt := 0, absent := 0 }
      cont := .initClocks 1, card := rest
      wire := s.wire ++ s.releaseEvents ++ exchanges false (s.bus.only true) [0xFF] [rx] } := by
  have hp : enginePrepare s = initStart s := by simp [enginePrepare, hc]
  rw [engineStep_scripted (tx := 0xFF) (by simp [hc]) (by simp [engineTx, hc, fill])
    (by rw [hp, initStart_eq]; exact hf) (by rw [hp, initStart_eq]; rfl) hcard, hp, initStart_eq]
  simp only [engineAbsorb, hc]
  rw [if_neg (by exact Nat.not_le.mpr hn)]
  rfl

/-- The step of INIT's last idle clock (R274). -/
theorem engineStep_initClocks_last {k : Nat} {rx : Byte} {rest : List Byte} {s : State} (hf : s.status.fault = false)
    (hu : s.bus.busEn = true) (hc : s.cont = .initClocks (k + 1)) (hn : s.params.idleClockBytes ≤ k + 2)
    (hcard : s.card = rx :: rest) :
    engineStep s = .next (initEnter .goIdle { r0 := none, r1 := none } { s with
      card := rest, wire := s.wire ++ exchanges s.bus.cs s.bus [0xFF] [rx] }) := by
  rw [engineStep_plain (tx := 0xFF) (by simp [hc]) (by simp [enginePrepare, hc]) (by simp [engineTx, hc, fill]) hf hu
    hcard]
  simp only [engineAbsorb, hc]
  rw [if_pos (by exact hn), ← hc]
  rfl

/-- INIT after k idle clocks, which the Card answered with the bytes rxs (R272, R274). -/
def State.initClocked (k : Nat) (rxs rest : List Byte) (s : State) : State :=
  { s with
    lat := s.latchFor 0x12
    status := { s.status with done := false, err := false, errCode := .none, cardState := .uninitialized }
    bus := s.bus.only true
    init := { phase := .clocks, attempt := 0, absent := 0 }
    cont := .initClocks k
    wire := s.wire ++ s.releaseEvents ++ exchanges false (s.bus.only true) (fills k) rxs
    card := rest }

/-- INIT's idle clocks up to the last (R274). -/
theorem run_initClocked {first : Byte} {mid rest : List Byte} {s : State} (ha : s.accepting)
    (hn : 1 + mid.length < s.params.idleClockBytes) (hcard : s.card = first :: (mid ++ rest)) :
    engineRun (mid.length + 1) (s.launched 0x12 (.initClocks 0)) =
      .next (State.initClocked (mid.length + 1) (first :: mid) rest s) := by
  have hstart : engineStep (s.launched 0x12 (.initClocks 0)) = .next (State.initClocked 1 [first] (mid ++ rest) s) :=
    engineStep_initClocks_first (by exact ha.1) rfl (by exact Nat.lt_of_le_of_lt (Nat.le_add_right ..) hn)
      (by exact hcard)
  rw [engineRun_succ hstart, run_initClocks mid rest 0 _ (by exact ha.1) rfl rfl (by rwa [Nat.zero_add]) rfl]
  simp only [State.initClocked, Nat.zero_add, Nat.add_comm 1, fills_succ, List.append_assoc]
  rfl

/-- Settles O38: the first idle clock, the ones between, and the last. -/
theorem initClocks : Obligations.InitClocks := by
  intro s rxs rest hd ha hlen hcard
  have hbound : 10 ≤ s.params.idleClockBytes := by
    simp only [Params.inDomain, Bool.and_eq_true, decide_eq_true_eq] at hd
    exact hd.1
  obtain ⟨first, rxs, rfl⟩ := List.exists_cons_of_length_pos (l := rxs) (by omega)
  obtain ⟨mid, last, rfl⟩ := (List.eq_nil_or_concat' rxs).resolve_left (by rintro rfl; simp at hlen; omega)
  rw [List.length_cons, List.length_append, List.length_singleton] at hlen
  have hcard' : s.card = first :: (mid ++ last :: rest) := by simpa using hcard
  have hstart := engineStep_initClocks_first (s := s.launched 0x12 (.initClocks 0)) (by exact ha.1) rfl
    (by exact Nat.lt_of_lt_of_le (by decide) hbound) (by exact hcard')
  refine ⟨_, exec_launchOk rfl ha (launchOk_free rfl), ⟨_, hstart, rfl, rfl, rfl, rfl, rfl⟩, ?_⟩
  have hrun := run_initClocked ha (by omega) hcard'
  rw [List.length_cons, List.length_append, List.length_singleton]
  refine ((engineRun_add hrun).trans (engineRun_one _)).trans ?_
  have hevents : exchanges false (s.bus.only true) (fills (mid.length + 1 + 1)) (first :: (mid ++ [last])) = _ :=
    exchanges_fills_append _ _ (xs := first :: mid) rfl
  rw [engineStep_initClocks_last (by exact ha.1) rfl rfl (by exact hlen.ge) rfl, hevents]
  simp only [initEnter, State.initClocked, List.append_assoc]
  rfl

/-! ### The trailing byte -/

/-- The state in which a phase of INIT concludes: chip-select released and the trailing fill byte exchanged (R273). -/
def State.trailed (rx : Byte) (card : List Byte) (draws : Nat) (s : State) : State :=
  { s with
    bus := { s.bus with cs := false }, card := card, draws := draws
    wire := s.wire ++ s.releaseEvents ++ exchanges false s.bus [0xFF] [rx] }

/-- The step of a transaction's trailing byte concludes its phase (R273). -/
theorem engineStep_initTrail {cmd : InitCmd} {st : TxnStatus} {r1 : Byte} {tail : Option Word} {p : Pending} {s : State}
    (hf : s.status.fault = false) (hu : s.bus.busEn = true) (hc : s.cont = .initTrail cmd st r1 tail p) :
    ∃ rx card draws, engineStep s = .next (initConclude cmd st r1 tail p (State.trailed rx card draws s)) := by
  have hp : enginePrepare s = setCs false s := by simp [enginePrepare, hc]
  have hstep := engineStep_exchange (s := s) (tx := 0xFF) (by simp [hc]) (by simp [engineTx, hc, fill])
    (by rw [hp, setCs_false]; exact hf) (by rw [hp, setCs_false]; exact hu)
  rw [hp, setCs_false] at hstep
  rw [hstep]
  simp only [engineAbsorb, exchange, cardAnswer]
  cases s.card <;> simp only [hc] <;> rw [← hc] <;> exact ⟨_, _, _, rfl⟩

/-! ### What a phase concludes -/

/-- INIT's failure: its results, the bus disabled and the card given up (R282, R319). -/
theorem initFail_eq (code : ErrCode) (p : Pending) (q : State) : initFail code p q = { q with
    resp0 := p.r0.getD q.resp0, resp1 := p.r1.getD q.resp1
    status := { q.status with
      done := true, err := true, xfer := false, poll := false, errCode := code, cardState := .uninitialized }
    bus := q.bus.only false
    init := { q.init with phase := .idle }
    wire := q.wire ++ q.releaseEvents
    cont := .idle } := by
  simp only [initFail, resetBus_eq, finishErr, setCs_false, ite_self]
  simp [commitPending, State.releaseEvents, BusCtl.only]
  rfl

/-- INIT's success: its results, the card Ready, and the finish (R281, R283, R318). -/
def initReady (p : Pending) (q : State) : State :=
  finishOk { q with
    resp0 := p.r0.getD q.resp0, resp1 := p.r1.getD q.resp1
    status := { q.status with cardState := .ready }
    init := { q.init with phase := .idle } }

/-- How a phase concludes in state q from its command, its status and R1: a next command or phase f, INIT's failure, or
its success. Every field not named is q's. -/
inductive Concluded (cmd : InitCmd) (st : TxnStatus) (r1 : Byte) (p : Pending) (q : State) : State → Prop
  | goesOn {cont : Cont} {init : InitRegs} {cardState : CardState} (h : cont ≠ .idle) :
      Concluded cmd st r1 p q { q with cont := cont, init := init, status := { q.status with cardState := cardState } }
  | failed {code : ErrCode} {init : InitRegs} : Concluded cmd st r1 p q (initFail code p { q with init := init })
  | ready (hcmd : cmd = .blockLen) (hst : st = .ok) (hr1 : r1 = 0x00) : Concluded cmd st r1 p q (initReady p q)

/-- The end of an attempt (R275 to R281). -/
theorem initRetry_concluded {cmd cmd' : InitCmd} {st : TxnStatus} {r1 : Byte} {p : Pending} {q : State} {limit : Nat}
    {code : ErrCode} (init : InitRegs) :
    Concluded cmd st r1 p q (initRetry limit code cmd' p { q with init := init }) := by
  unfold initRetry
  split
  · exact .failed
  · exact .goesOn (by simp)

/-- A phase concludes in one of the three ways (R275 to R283). -/
theorem initConclude_concluded (cmd : InitCmd) (st : TxnStatus) (r1 : Byte) (tail : Option Word) (p : Pending)
    (q : State) : Concluded cmd st r1 p q (initConclude cmd st r1 tail p q) := by
  have enter : ∀ {cmd' cardState}, Concluded cmd st r1 p q (initEnter cmd' p (setCardState cardState q)) :=
    .goesOn (by simp)
  have failed : ∀ {code}, Concluded cmd st r1 p q (initFail code p q) := .failed (init := q.init)
  have retry : ∀ {limit code cmd'}, Concluded cmd st r1 p q (initRetry limit code cmd' p q) :=
    initRetry_concluded q.init
  cases cmd <;> simp only [initConclude]
  case goIdle =>
    generalize (if st = .timeout then q.init.absent + 1 else 0) = absent
    split
    · exact enter
    · split
      · exact .failed
      · exact initRetry_concluded _
  case ifCond =>
    split
    · exact enter
    · exact retry
  case crcOn =>
    split
    · exact enter (cardState := q.status.cardState)
    · exact failed
  case readOcr =>
    split
    · exact enter (cardState := q.status.cardState)
    · exact retry
  case appCmd | opCond =>
    split
    · exact .goesOn (init := q.init) (cardState := q.status.cardState) (by simp)
    · exact retry
  case blockLen =>
    split
    · exact .ready rfl (And.left ‹_›) (And.right ‹_›)
    · exact retry

/-- With chip-select released already, the conclusion leaves it and the wire alone. -/
theorem Concluded.quiet {cmd : InitCmd} {st : TxnStatus} {r1 : Byte} {p : Pending} {q t : State}
    (h : Concluded cmd st r1 p q t) (hcs : q.bus.cs = false) : t.wire = q.wire ∧ t.bus.cs = false := by
  cases h with
  | goesOn | ready => exact ⟨rfl, hcs⟩
  | failed =>
    rw [initFail_eq]
    exact ⟨by simp [State.releaseEvents, hcs], rfl⟩

/-- Where INIT ends, RESP0 and RESP1 receive the results it held (R282, R283). -/
theorem Concluded.results {cmd : InitCmd} {st : TxnStatus} {r1 : Byte} {p : Pending} {q t : State}
    (h : Concluded cmd st r1 p q t) (hc : t.cont = .idle) :
    t.resp0 = p.r0.getD q.resp0 ∧ t.resp1 = p.r1.getD q.resp1 := by
  cases h with
  | goesOn hgoes => exact absurd hc hgoes
  | failed =>
    rw [initFail_eq]
    exact ⟨rfl, rfl⟩
  | ready => exact ⟨rfl, rfl⟩

/-- How INIT's failure leaves the block, whatever the bus was but for its level (R282, R319). -/
theorem initFailed_initFail (code : ErrCode) (p : Pending) {s q : State} (hlevel : q.bus.level = s.bus.level) :
    InitFailed code s (initFail code p q) := by
  rw [initFail_eq]
  exact ⟨rfl, by simp only [BusCtl.only, hlevel], ⟨rfl, rfl, rfl, rfl⟩, rfl⟩

/-- The end of an attempt: at its limit the phase fails, below it the phase sends its command again (R275 to R281). -/
theorem initRetry_ends (limit : Nat) (code : ErrCode) (cmd : InitCmd) (p : Pending) {s q : State}
    (hlevel : q.bus.level = s.bus.level) :
    (limit ≤ q.init.attempt → InitFailed code s (initRetry limit code cmd p q)) ∧
    (q.init.attempt < limit → initRetry limit code cmd p q = initAgain cmd p q) := by
  refine ⟨fun h => ?_, fun h => if_neg (Nat.not_le.mpr h)⟩
  rw [initRetry, if_pos h]
  exact initFailed_initFail code p hlevel

/-- Phase b after a CMD0 that did not bring 0x01: at the bound on cards that do not answer, and then at the bound on
attempts, it fails, below both it sends CMD0 again (R275). -/
theorem initConclude_goIdle {st : TxnStatus} {r1 : Byte} {tail : Option Word} {p : Pending} {s q : State} {n : Nat}
    (h : ¬(st = .ok ∧ r1 = 0x01)) (hn : n = if st = .timeout then q.init.absent + 1 else 0)
    (hlevel : q.bus.level = s.bus.level) :
    (q.params.cmd0AbsentLimit ≤ n → InitFailed .initCardAbsent s (initConclude .goIdle st r1 tail p q)) ∧
    (n < q.params.cmd0AbsentLimit → q.params.cmd0Limit ≤ q.init.attempt →
      InitFailed .initIdleFailed s (initConclude .goIdle st r1 tail p q)) ∧
    (n < q.params.cmd0AbsentLimit → q.init.attempt < q.params.cmd0Limit →
      initConclude .goIdle st r1 tail p q = initAgain .goIdle p { q with init := { q.init with absent := n } }) := by
  simp only [initConclude, ← hn]
  rw [if_neg h]
  refine ⟨fun habsent => ?_, fun habsent hlimit => ?_, fun habsent hlimit => ?_⟩
  · rw [if_pos habsent]
    exact initFailed_initFail _ p hlevel
  · rw [if_neg (Nat.not_le.mpr habsent)]
    exact (initRetry_ends _ _ _ p (by exact hlevel)).1 hlimit
  · rw [if_neg (Nat.not_le.mpr habsent)]
    exact if_neg (Nat.not_le.mpr hlimit)

/-- Settles O39: the trailing byte, and then each phase's success and the end of its attempt. -/
theorem initPhases : Obligations.InitPhases := by
  intro s cmd st r1 tail p hf hu hc
  obtain ⟨rx, card, draws, hstep⟩ := engineStep_initTrail hf hu hc
  have hconcluded := initConclude_concluded cmd st r1 tail p (State.trailed rx card draws s)
  obtain ⟨hwire, hcs⟩ := hconcluded.quiet rfl
  have fails : ∀ {limit code cmd'}, limit ≤ s.init.attempt →
      InitFailed code s (initRetry limit code cmd' p (State.trailed rx card draws s)) :=
    fun hlimit => (initRetry_ends _ _ _ p (s := s) (q := State.trailed rx card draws s) rfl).1 hlimit
  have again : ∀ {limit code cmd'}, s.init.attempt < limit →
      (initRetry limit code cmd' p (State.trailed rx card draws s)).cont = .frame (.init cmd' p) 0 :=
    fun hlimit => congrArg State.cont
      ((initRetry_ends _ _ _ p (s := s) (q := State.trailed rx card draws s) rfl).2 hlimit)
  refine ⟨_, rx, hstep, hwire, hcs, initConclude_mem .., hconcluded.results, ?_, ?_, ?_, ?_, ?_, ?_, ?_⟩ <;> rintro rfl
  case refine_1 =>
    refine ⟨fun h => ?_, fun h n hn => ?_⟩
    · rw [initConclude, if_pos h]
      exact ⟨rfl, rfl, rfl⟩
    · obtain ⟨habsent, hfails, hagain⟩ := initConclude_goIdle (tail := tail) (p := p) (s := s)
        (q := State.trailed rx card draws s) h hn rfl
      refine ⟨habsent, hfails, fun hn hlimit => ?_⟩
      rw [hagain hn hlimit]
      exact ⟨rfl, rfl, rfl⟩
  case refine_2 =>
    simp only [initConclude, ← echoMatches_iff]
    refine ⟨fun h => ?_, fun h => ?_⟩
    · rw [if_pos h]
      exact ⟨rfl, rfl, rfl⟩
    · rw [if_neg h]
      exact ⟨fails, again⟩
  case refine_3 =>
    refine ⟨fun h => ?_, fun h => ?_⟩ <;> rw [initConclude]
    · rw [if_pos h]
      exact ⟨rfl, rfl⟩
    · rw [if_neg h]
      exact initFailed_initFail _ p rfl
  case refine_4 | refine_5 | refine_6 | refine_7 =>
    refine ⟨fun h => ?_, fun h => ?_, fun h => ?_⟩ <;> rw [initConclude]
    · rw [if_pos h]
      repeat' apply And.intro
      all_goals rfl
    · rw [if_neg h]
      exact fails
    · rw [if_neg h]
      exact again

/-! ### How INIT ends -/

/-- A transaction of INIT does not end INIT (R273). -/
theorem txnReturn_isInit {c : Caller} {st : TxnStatus} {r1 : Byte} {tail : Option Word} {q : State}
    (hi : c.isInit = true) : (txnReturn c st r1 tail q).cont ≠ .idle := by
  cases c with
  | cmdSend => cases hi
  | init cmd p => simp [txnReturn]

/-- R1 of a transaction of INIT does not end INIT (R205 to R207). -/
theorem txnAfterR1_isInit {c : Caller} {r1 : Byte} {q : State} (hi : c.isInit = true) :
    (txnAfterR1 c r1 q).cont ≠ .idle := by
  unfold txnAfterR1
  split
  · exact txnReturn_isInit hi
  · split
    · exact txnReturn_isInit hi
    all_goals simp

/-- A step of INIT other than a trailing byte does not end INIT. -/
theorem engineAbsorb_runsInit (tx rx : Byte) {q : State} (hi : q.cont.runsInit = true)
    (htrail : ∀ cmd st r1 tail p, q.cont ≠ .initTrail cmd st r1 tail p) : (engineAbsorb tx rx q).cont ≠ .idle := by
  cases hc : q.cont <;> simp only [engineAbsorb, hc] <;> simp only [hc] at hi
  case frame =>
    split
    · simp
    · split <;> simp
  case stuff => simp
  case r1Poll =>
    split
    · exact txnAfterR1_isInit hi
    · split
      · exact txnReturn_isInit hi
      · simp
  case trailing =>
    split
    · exact txnReturn_isInit hi
    · split
      · simp
      · exact txnReturn_isInit hi
  case initTrail => exact absurd hc (htrail _ _ _ _ _)
  case busy u k =>
    cases u with
    | txn c r1 =>
      split
      · exact txnReturn_isInit hi
      · split
        · exact txnReturn_isInit hi
        · simp
    | writeBlock | stopTran | busyWait => cases hi
  case initClocks => split <;> simp [initEnter]
  case speedUp => simp
  all_goals cases hi

/-- INIT ends at a trailing byte alone. -/
theorem initTrail_of_ends {s t : State} (hi : s.cont.runsInit = true) (h : engineStep s = .next t)
    (hend : t.cont = .idle) : ∃ cmd st r1 tail p, s.cont = .initTrail cmd st r1 tail p := by
  by_contra htrail
  obtain ⟨hc, -⟩ | ⟨-, htx, rfl⟩ | ⟨-, tx, -, -, -, rfl⟩ := engineStep_cases h
  · simp [hc] at hi
  · obtain hc | hc | ⟨pend, hc⟩ := engineTx_none htx
    · simp [hc] at hi
    · simp [hc] at hi
    · simp [engineQuiet, hc, initEnter] at hend
  · exact engineAbsorb_runsInit _ _ (by simpa using hi) (by simpa using htrail) hend

/-- Settles O42: the step is that of a trailing byte, whose phase fails or is the last; the invariant holds INIT's
results, its clock and the CRC of CMD16's frame. -/
theorem initEnds : Obligations.InitEnds := by
  intro s t h hi hstep hend
  obtain ⟨cmd, st, r1, tail, p, hc⟩ := initTrail_of_ends hi hstep hend
  obtain ⟨hf, hu⟩ := inv_running h (by simp [hc]) (by simp [hc])
  obtain ⟨hr0, hword⟩ := h.held cmd st r1 tail p hc
  obtain ⟨rx, card, draws, htrail⟩ := engineStep_initTrail hf hu hc
  rw [htrail] at hstep
  cases hstep
  have hconcluded := initConclude_concluded cmd st r1 tail p (State.trailed rx card draws s)
  obtain ⟨hresp0, hresp1⟩ := hconcluded.results hend
  have hresp0 : (initConclude cmd st r1 tail p (State.trailed rx card draws s)).resp0 = r1 := by
    rw [hresp0, hr0]
    rfl
  have hheld : st = .ok → ∀ v, tail = some v →
      (initConclude cmd st r1 tail p (State.trailed rx card draws s)).resp1 = v := by
    intro hst v htail
    rw [hresp1, hword v hst htail]
    rfl
  generalize initConclude cmd st r1 tail p (State.trailed rx card draws s) = t at *
  cases hconcluded with
  | goesOn hgoes => exact absurd hend hgoes
  | failed =>
    rw [initFail_eq] at *
    exact ⟨rfl, rfl, rfl, rfl, rfl, rfl, rfl, ⟨_, _, _, _, _, hc, hresp0, hresp1, hheld⟩, fun _ => ⟨rfl, rfl⟩, nofun⟩
  | ready hcmd hst hr1 =>
    subst hcmd hr1
    obtain ⟨hclock, hlevel⟩ := h.clock true (by rw [hc]; rfl)
    have hcrc := h.frameCrc _ (congrArg Cont.started? hc)
    refine ⟨rfl, rfl, rfl, rfl, rfl, rfl, rfl, ⟨_, _, _, _, _, hc, hresp0, hresp1, hheld⟩, nofun,
      fun _ => ⟨?_, rfl, hresp0, ?_⟩⟩
    · simp [initReady, finishOk, State.trailed, hu, hclock, hlevel]
    · exact hcrc.trans (by decide +kernel : Machine.frameCrc 16 512 = 0x0A)

end Sys2Proof.Proofs
end

section
/-! PROOFS. What raising a fault records, clears and keeps (R321). It stands last: its theorem's name is that of the
model's own operation. -/
namespace Sys2Proof.Proofs
open Sys2Proof.Machine Sys2Proof.Laws

/-- Settles O15: the first fault by `raiseFault_first`, a later one is ignored. -/
theorem raiseFault : Obligations.RaiseFault := by
  refine ⟨fun code s hf => ⟨_, _, _, raiseFault_first code hf, fun hidle => ?_⟩, raiseFault_sticky,
    fun s addr width off hoff hbad => ?_, fun s addr v off hf hoff => ?_⟩
  · rw [dropRunningCrc_idle hidle]
    exact ⟨rfl, rfl, rfl⟩
  · rw [hostLoad_window hoff, if_neg (goodAccess_bad hbad)]
  · rw [hostStore_window hoff, regWrite_faulted off v hf, raiseFault_sticky _ s hf, ite_self]

end Sys2Proof.Proofs
end
